-- ==== Sys2Proof/Word.lean ====
section
/-! DEFINITION. The bit vectors of the CORE: what the spec treats as bits, and nothing else (spec/00_scope.md R4, R9). -/

namespace Sys2Proof

/-- A Word: the 16 bits of a register, of a memory cell, of an instruction (R4). -/
abbrev Word := BitVec 16

/-- Half a Word, the unit in which the model's memory list holds its cells (log entry 1). -/
abbrev Byte := BitVec 8

/-- The address of a memory cell, and the 8-bit operand field `addr` (R15, R51). -/
abbrev Addr := BitVec 8

/-- The index of a general register (R10). -/
abbrev RegIdx := BitVec 4

end Sys2Proof
end

