-- ==== Sys2Proof/Config.lean ====
section
/-! DEFINITION. The constants the spec fixes, and the free values of the console's text side (spec/00_scope.md R7). -/

namespace Sys2Proof

/-- IO_ADDR: the one address whose data accesses the gateway intercepts (R7, R38). -/
def Config.ioAddr : Addr := 0xFF

/-- The conventional ENTRY_PC (R38, R181). DESIGN CHOICE: `State.reset` uses it; log entry 3. -/
def Config.conventionalEntry : Int := 0x10

/-- MEM_WORDS: the number of cells (R7). -/
def Config.memWords : Nat := 256

/-- HEX_CASE, OPEN in the spec (92 D14): whether the console prints hexadecimal letters as capitals.
A free value: nothing constrains it. Log entry 9. -/
opaque Config.hexUpper : Bool

/-- INPUT_RADIX, OPEN in the spec (92 D14): whether a console input line is read as hexadecimal (else decimal).
A free value. Log entry 9. -/
opaque Config.inputIsHex : Bool

/-- What the console prints in ASCII mode for a Word that is not the code point of a printable character: the spec
leaves it open (91 N7). A free value. Log entry 10. -/
opaque Config.openGlyph : Word → List Char

/-- The Word the adapter delivers in ASCII mode for an empty line, or for a first character whose code exceeds 0xFFFF:
open in the spec (91 N7). A free value. Log entry 10. -/
opaque Config.openAsciiInput : List Char → Word

/-- The Word the adapter delivers with ASCII mode off for a line that is not a plain number of 16 bits in the radix:
open in the spec (91 N7). A free value. Log entry 10. -/
opaque Config.openNumberInput : List Char → Word

end Sys2Proof
end

