-- ==== Sys2Proof/Syntax.lean ====
section
/-! DEFINITION. The five-field form of an instruction Word and the sixteen instructions (spec/30_encoding.md R51 to R54). -/

namespace Sys2Proof

/-- The five fields the decoder produces from every Word (R51, R72). `addr` is a second reading of `s` and `t`. -/
structure Fields where
  op   : BitVec 4
  d    : RegIdx
  s    : RegIdx
  t    : RegIdx
  addr : Addr
  deriving DecidableEq, Repr

/-- The sixteen instructions, one constructor per row of the opcode table, holding the fields the instruction uses
(R52, R54, R59). -/
inductive Instr where
  /-- Opcode 0, halt (R115). -/
  | hlt
  /-- Opcode 1, add (R86). -/
  | add (d s t : RegIdx)
  /-- Opcode 2, subtract (R87). -/
  | sub (d s t : RegIdx)
  /-- Opcode 3, bitwise AND (R88). -/
  | and (d s t : RegIdx)
  /-- Opcode 4, bitwise exclusive-or (R89). -/
  | xor (d s t : RegIdx)
  /-- Opcode 5, logical left shift (R90). -/
  | shl (d s t : RegIdx)
  /-- Opcode 6, logical right shift (R91). -/
  | shr (d s t : RegIdx)
  /-- Opcode 7, load immediate (R100). -/
  | ldi (d : RegIdx) (addr : Addr)
  /-- Opcode 8, load memory to register (R101). -/
  | ld (d : RegIdx) (addr : Addr)
  /-- Opcode 9, store register to memory (R102). `d` names the source register. -/
  | st (d : RegIdx) (addr : Addr)
  /-- Opcode A, indirect load (R103). -/
  | ldx (d t : RegIdx)
  /-- Opcode B, indirect store (R104). `d` names the source register. -/
  | stx (d t : RegIdx)
  /-- Opcode C, branch if zero (R116). -/
  | bz (d : RegIdx) (addr : Addr)
  /-- Opcode D, branch if positive (R117). -/
  | bp (d : RegIdx) (addr : Addr)
  /-- Opcode E, indirect jump (R118). -/
  | jr (d : RegIdx)
  /-- Opcode F, call (R119). -/
  | call (d : RegIdx) (addr : Addr)
  deriving DecidableEq, Repr

end Sys2Proof
end

