-- ==== Sys2Proof/WellFormed.lean ====
section
/-! DEFINITION. What a well-formed five-field form is (spec/30_encoding.md R51). An `Instr` needs no check of its own:
its operands are 4-bit and 8-bit fields by type, and every one of the 65536 Words is a legal instruction (R55). -/

namespace Sys2Proof

/-- The two readings of the low byte agree: `addr = {s, t} = 16 * s + t` (R51). -/
def Fields.wf (f : Fields) : Bool :=
  f.addr.toNat == 16 * f.s.toNat + f.t.toNat

end Sys2Proof
end

