-- ==== Sys2Proof/Decode.lean ====
section
/-! DEFINITION. The decoder, total on Words, and after it the encoder (spec/30_encoding.md R50 to R56,
spec/40_step_and_decode.md R72, R73). -/

namespace Sys2Proof

/-- The byte of a Word that holds its two most significant hexadecimal digits. -/
def hiByte (w : Word) : Byte := w.extractLsb' 8 8

/-- The byte of a Word that holds its two least significant hexadecimal digits. -/
def loByte (w : Word) : Byte := w.extractLsb' 0 8

/-- A Word from its two bytes, the more significant first. -/
def wordOfBytes (hi lo : Byte) : Word := hi ++ lo

/-- `Decode(ir)`, the five fields of a Word: a pure function with no failure mode (R51, R72). -/
def Fields.ofWord (ir : Word) : Fields where
  op   := ir.extractLsb' 12 4
  d    := ir.extractLsb' 8 4
  s    := ir.extractLsb' 4 4
  t    := ir.extractLsb' 0 4
  addr := ir.extractLsb' 0 8

/-- Dispatch: the field `op` alone selects the instruction, a closed sixteen-way choice (R54, R73). The fields the
instruction does not use are ignored (R56). -/
def Fields.toInstr (f : Fields) : Instr :=
  match f.op.toNat with
  | 0x0 => .hlt
  | 0x1 => .add f.d f.s f.t
  | 0x2 => .sub f.d f.s f.t
  | 0x3 => .and f.d f.s f.t
  | 0x4 => .xor f.d f.s f.t
  | 0x5 => .shl f.d f.s f.t
  | 0x6 => .shr f.d f.s f.t
  | 0x7 => .ldi f.d f.addr
  | 0x8 => .ld f.d f.addr
  | 0x9 => .st f.d f.addr
  | 0xA => .ldx f.d f.t
  | 0xB => .stx f.d f.t
  | 0xC => .bz f.d f.addr
  | 0xD => .bp f.d f.addr
  | 0xE => .jr f.d
  | _   => .call f.d f.addr

/-- The instruction a Word is: every Word is one (R55). -/
def decodeWord (ir : Word) : Instr := (Fields.ofWord ir).toInstr

/-- Why a list of bytes is no instruction: the CORE has no illegal Word (R55), so only a list too short for one. -/
inductive DecodeReject where
  /-- Fewer than two bytes are left: no whole Word stands there. -/
  | truncated
  deriving DecidableEq, Repr

/-- The decoder over bytes: one Word is taken, in the byte order of the model's memory (log entry 1), and the rest of
the list is given back. -/
def decode : List Byte → Except DecodeReject (Instr × List Byte)
  | hi :: lo :: rest => .ok (decodeWord (wordOfBytes hi lo), rest)
  | _ => .error .truncated

/-- The opcode digit of an instruction (R54). -/
def Instr.opcode : Instr → BitVec 4
  | .hlt => 0x0
  | .add _ _ _ => 0x1
  | .sub _ _ _ => 0x2
  | .and _ _ _ => 0x3
  | .xor _ _ _ => 0x4
  | .shl _ _ _ => 0x5
  | .shr _ _ _ => 0x6
  | .ldi _ _ => 0x7
  | .ld _ _ => 0x8
  | .st _ _ => 0x9
  | .ldx _ _ => 0xA
  | .stx _ _ => 0xB
  | .bz _ _ => 0xC
  | .bp _ _ => 0xD
  | .jr _ => 0xE
  | .call _ _ => 0xF

/-- A form of the format RR: the low byte is the two indices (R52). -/
def Fields.rr (op : BitVec 4) (d s t : RegIdx) : Fields := ⟨op, d, s, t, s ++ t⟩

/-- A form of the format A: the low byte is the operand `addr` (R52). -/
def Fields.a (op : BitVec 4) (d : RegIdx) (addr : Addr) : Fields :=
  ⟨op, d, addr.extractLsb' 4 4, addr.extractLsb' 0 4, addr⟩

/-- The five fields an instruction is written with: zeros in the fields it does not use (R56, R59). -/
def Instr.fields (i : Instr) : Fields :=
  match i with
  | .hlt => .rr i.opcode 0 0 0
  | .add d s t => .rr i.opcode d s t
  | .sub d s t => .rr i.opcode d s t
  | .and d s t => .rr i.opcode d s t
  | .xor d s t => .rr i.opcode d s t
  | .shl d s t => .rr i.opcode d s t
  | .shr d s t => .rr i.opcode d s t
  | .ldi d addr => .a i.opcode d addr
  | .ld d addr => .a i.opcode d addr
  | .st d addr => .a i.opcode d addr
  | .ldx d t => .rr i.opcode d 0 t
  | .stx d t => .rr i.opcode d 0 t
  | .bz d addr => .a i.opcode d addr
  | .bp d addr => .a i.opcode d addr
  | .jr d => .rr i.opcode d 0 0
  | .call d addr => .a i.opcode d addr

/-- The Word of a five-field form, `{op, d, s, t}` (R51). -/
def Fields.toWord (f : Fields) : Word := f.op ++ f.d ++ f.s ++ f.t

/-- The encoder: the Word an instruction is written as (R59). -/
def encode (i : Instr) : Word := i.fields.toWord

/-- The instruction the decoder reads from a table row's bits, numbered as spec/opcode_table.json numbers them: the one
Word is laid out as the model's memory stores it and given to `decode`. -/
def decodeTableWord (nbits w : Nat) : Option Instr :=
  if nbits ≤ 16 then
    let ir : Word := BitVec.ofNat 16 (w % 2 ^ nbits)
    match decode [hiByte ir, loByte ir] with
    | .ok (i, []) => some i
    | _ => none
  else none

end Sys2Proof
end

