-- ==== Sys2Proof/Machine/State.lean ====
section
/-! DEFINITION. The state of the CORE as plain data, the reasons a step stops, and the state after reset
(spec/10_state.md R10 to R20, R25). -/

namespace Sys2Proof.Machine

/-- The memory of the CORE: (byte address, byte) pairs in one canonical form (`Memory.wf`). The cell `M[a]` of R15 is
the two bytes at 2a and 2a + 1 (log entry 1). An unlisted address reads as 0, the reset contents of R25. -/
abbrev Memory := List Host.Cell

/-- The canonical form: addresses strictly rising and inside the 512 bytes of the 256 cells, and no entry equal to what
an unlisted address reads as. -/
abbrev Memory.wf (m : Memory) : Prop :=
  m.Pairwise (fun c c' => c.1 < c'.1) ∧ ∀ c ∈ m, c.1 < 2 * Config.memWords ∧ c.2 ≠ 0

/-- The run status (R16). -/
inductive Status where
  /-- The machine executes instructions. -/
  | run
  /-- The normal end: opcode 0 was executed. -/
  | halt
  /-- The abnormal end: a fault was raised. -/
  | fault
  deriving DecidableEq, Repr

/-- The fault causes (R150). -/
inductive FaultCause where
  /-- Code 0: no fault has been raised. -/
  | none
  /-- Code 1, ArithmeticRangeError: the exact ALU result is outside -32768 .. 32767 (R151). -/
  | arithmeticRange
  /-- Code 2, ReservedRegisterError: a write to register 0 was attempted (R152). -/
  | reservedRegister
  /-- Code 3, InvalidOpcode: reserved, nothing raises it (R153). -/
  | invalidOpcode
  /-- Code 4, FetchAddressFault: a fetch with `pc` outside 0 .. 255 (R154). -/
  | fetchAddress
  /-- Code 5, DataAddressFault: an indirect address above 0x00FF (R155). -/
  | dataAddress
  /-- Code 6, ShiftCountFault: a negative shift count (R156). -/
  | shiftCount
  deriving DecidableEq, Repr

/-- The fault record (R17). It means something only while `status` is FAULT. -/
structure FaultRecord where
  cause  : FaultCause
  fpc    : Int
  fvalue : Int
  deriving DecidableEq, Repr

/-- The state: the architectural tuple (x, pc, M, status, fault) of spec/10_state.md, the two streams of the
environment (R20) and the two configuration bits (R18, R19). -/
structure State where
  /-- x[0] .. x[15] (R10). -/
  regs       : Vector Word 16
  /-- The program counter, a mathematical integer (R13). -/
  pc         : Int
  /-- M[0x00] .. M[0xFF] (R15). -/
  mem        : Memory
  /-- The run status (R16). -/
  status     : Status
  /-- The fault record (R17). -/
  fault      : FaultRecord
  /-- INPUT: the Words the console has supplied and no load has taken yet, first one first (R20, R132). -/
  input      : List Word
  /-- OUTPUT: the Words emitted, oldest first (R20, R133). -/
  output     : List Word
  /-- Configuration: the text side's encoding (R19). -/
  asciiIo    : Bool
  /-- Configuration: the trace tap's enable (R19). -/
  debugTrace : Bool
  deriving DecidableEq, Repr

/-- Why no step exists. The CORE's own faults are NOT here: raising one is a next state (R158). -/
inductive Fault where
  /-- Raised by `step` alone, when `status` is HALT: the run is over, no step exists (R77). Safe: nothing is computed. -/
  | halted
  /-- Raised by `step` alone, when `status` is FAULT: the run is over, no step exists (R77). Safe: nothing is computed. -/
  | faulted
  deriving DecidableEq, Repr

/-- Why an instruction is given no meaning. -/
inductive Refusal where
  /-- An instruction with no meaning in the model yet: no arm of `exec` answers with it now. Safe: nothing is computed. -/
  | notModelled (mnemonic : String)
  deriving DecidableEq, Repr

/-- The machine right after reset with an empty image (R25): registers and memory zero, status RUN, no fault, nothing
emitted. DESIGN CHOICE, each in the log: ENTRY_PC 0x10 (entry 3), `fpc` and `fvalue` 0 (entry 4), no input supplied yet
(entry 5), both configuration bits false (entry 6). -/
def State.reset : State where
  regs       := Vector.replicate 16 0
  pc         := Config.conventionalEntry
  mem        := []
  status     := .run
  fault      := ⟨.none, 0, 0⟩
  input      := []
  output     := []
  asciiIo    := false
  debugTrace := false

end Sys2Proof.Machine
end

