-- ==== Sys2Proof/Machine/Memory.lean ====
section
/-! DEFINITION. The raw memory: bytes of the canonical list, and the 256 cells made of them (spec/20_memory.md R31, R33). -/

namespace Sys2Proof.Machine

/-- The byte at a byte address; an unlisted address reads as 0 (R25). -/
def Memory.readByte : Memory → Nat → Byte
  | [], _ => 0
  | (k, v) :: m, a => if k = a then v else Memory.readByte m a

/-- Lists the byte `v` at the address `a`, in its place in the order. -/
def Memory.insertByte : Memory → Nat → Byte → Memory
  | [], a, v => [(a, v)]
  | (k, u) :: m, a, v =>
    if a < k then (a, v) :: (k, u) :: m
    else if k = a then (a, v) :: m
    else (k, u) :: Memory.insertByte m a v

/-- Takes the address `a` out of the list. -/
def Memory.eraseByte (m : Memory) (a : Nat) : Memory := m.filter (fun c => c.1 != a)

/-- Writes a byte and keeps the canonical form: a zero is not listed. -/
def Memory.writeByte (m : Memory) (a : Nat) (v : Byte) : Memory :=
  if v = 0#8 then m.eraseByte a else m.insertByte a v

/-- The byte address of a cell's more significant byte. DESIGN CHOICE: log entry 1. -/
def hiSlot (a : Addr) : Nat := 2 * a.toNat

/-- The byte address of a cell's less significant byte. DESIGN CHOICE: log entry 1. -/
def loSlot (a : Addr) : Nat := 2 * a.toNat + 1

/-- Reads the raw cell `M[a]` (R33). -/
def Memory.readCell (m : Memory) (a : Addr) : Word :=
  wordOfBytes (m.readByte (hiSlot a)) (m.readByte (loSlot a))

/-- Writes the raw cell, `M[a] <- w` (R33). -/
def Memory.writeCell (m : Memory) (a : Addr) (w : Word) : Memory :=
  (m.writeByte (hiSlot a) (hiByte w)).writeByte (loSlot a) (loByte w)

end Sys2Proof.Machine
end

