-- ==== Sys2Proof/Machine/Operands.lean ====
section
/-! DEFINITION. The two readings of a Word, the operand forms, and which registers an instruction names
(spec/00_scope.md R5, R6, spec/30_encoding.md R53, spec/42_memory_access.md R105, spec/10_state.md R12). -/

namespace Sys2Proof.Machine

/-- The signed two's-complement reading of a Word (R5). -/
def signed (w : Word) : Int :=
  if w.toNat ≤ 32767 then (w.toNat : Int) else (w.toNat : Int) - 65536

/-- The Word of an integer of -32768 .. 65535 (R6). No rule applies it outside that range; there the low
16 bits. DESIGN CHOICE: log entry 15. -/
def unsigned (v : Int) : Word :=
  if 0 ≤ v then BitVec.ofInt 16 v else BitVec.ofInt 16 (v + 65536)

/-- The unsigned magnitude of a Word (R4). -/
def magnitude (w : Word) : Nat := w.toNat

/-- The immediate operand: `addr` extended with zeros, never with a sign (R53). -/
def immediate (addr : Addr) : Word := addr.zeroExtend 16

/-- An absolute target, `unsigned(addr)` as an integer 0 .. 255 (R53, R120). -/
def absTarget (addr : Addr) : Int := (addr.toNat : Int)

/-- The address an integer names, if memory has it (R36). -/
def addrOfInt (v : Int) : Option Addr :=
  if 0 ≤ v ∧ v ≤ 255 then some (BitVec.ofNat 8 v.toNat) else none

/-- The address a Word names, if memory has it: the whole magnitude, not its low byte (R37; the spec's decision D5,
log entry 8). -/
def addrOfWord (w : Word) : Option Addr := addrOfInt (magnitude w : Int)

/-- Reads register `r` (R10). `x[0]` is the storage that no write reaches, so it reads 0 (R11). -/
def State.reg (s : State) (r : RegIdx) : Word := s.regs[r.toNat]'(r.isLt)

/-- The effective address of a register-indirect operand, none above 0x00FF (R37, R105). -/
def State.indirect (s : State) (t : RegIdx) : Option Addr := addrOfWord (s.reg t)

/-- The registers an instruction reads (R12). -/
def regsRead : Instr → List RegIdx
  | .hlt => []
  | .add _ s t => [s, t]
  | .sub _ s t => [s, t]
  | .and _ s t => [s, t]
  | .xor _ s t => [s, t]
  | .shl _ s t => [s, t]
  | .shr _ s t => [s, t]
  | .ldi _ _ => []
  | .ld _ _ => []
  | .st d _ => [d]
  | .ldx _ t => [t]
  | .stx d t => [d, t]
  | .bz d _ => [d]
  | .bp d _ => [d]
  | .jr d => [d]
  | .call _ _ => []

/-- The register an instruction writes through the protected port, if it has a register destination (R12). -/
def regWritten : Instr → Option RegIdx
  | .hlt => none
  | .add d _ _ => some d
  | .sub d _ _ => some d
  | .and d _ _ => some d
  | .xor d _ _ => some d
  | .shl d _ _ => some d
  | .shr d _ _ => some d
  | .ldi d _ => some d
  | .ld d _ => some d
  | .st _ _ => none
  | .ldx d _ => some d
  | .stx _ _ => none
  | .bz _ _ => none
  | .bp _ _ => none
  | .jr _ => none
  | .call d _ => some d

/-- The address a load reads through the gateway, if the instruction is a load whose address memory has (R40, R105). -/
def loadAddr (i : Instr) (s : State) : Option Addr :=
  match i with
  | .ld _ addr => some addr
  | .ldx _ t => s.indirect t
  | _ => none

/-- The address a store writes through the gateway, if the instruction is a store whose address memory has (R40, R105). -/
def storeAddr (i : Instr) (s : State) : Option Addr :=
  match i with
  | .st _ addr => some addr
  | .stx _ t => s.indirect t
  | _ => none

end Sys2Proof.Machine
end

