-- ==== Sys2Proof/Machine/Flags.lean ====
section
/-! DEFINITION. The ALU's one status output. The CORE stores no flag (spec/10_state.md R14, spec/41_alu.md R92). -/

namespace Sys2Proof.Machine

/-- `ovf`: the exact result lies outside the signed range of a Word (R92). -/
def ovf (r : Int) : Bool := decide (r < -32768) || decide (32767 < r)

/-- The test of BZ (R116). -/
def isZero (w : Word) : Bool := decide (signed w = 0)

/-- The test of BP, on the signed reading (R117). -/
def isPositive (w : Word) : Bool := decide (0 < signed w)

end Sys2Proof.Machine
end

