-- ==== Sys2Proof/Machine/Ops.lean ====
section
/-! DEFINITION. The operations every instruction shares: fault entry, the protected write port, the gateway, the data
accesses, the fetch (spec/20_memory.md, spec/40_step_and_decode.md, spec/44_io_gateway.md, spec/60_exceptions.md). -/

namespace Sys2Proof.Machine

/-- What a meaning and a step answer. -/
abbrev Result := Host.Outcome State Fault Refusal

/-- The program counter set to a target. -/
def State.setPc (s : State) (v : Int) : State := { s with pc := v }

/-- The default next pc: `pc + 1` on integers, no wrap (R76). -/
def State.advance (s : State) : State := s.setPc (s.pc + 1)

/-- A register's storage replaced: the mutation behind the protected port, used only with `r` other than 0 (R9). -/
def State.setReg (s : State) (r : RegIdx) (v : Word) : State :=
  { s with regs := s.regs.set r.toNat v r.isLt }

/-- A raw cell replaced (R33). -/
def State.setCell (s : State) (a : Addr) (v : Word) : State :=
  { s with mem := s.mem.writeCell a v }

/-- The raw cell `M[a]` (R33). -/
def State.cell (s : State) (a : Addr) : Word := s.mem.readCell a

/-- FAULT ENTRY: the cause, the pc of this step and the value go into the record, the status becomes FAULT, and nothing
else changes (R158). The CORE has no handler and no return from it (R160). -/
def State.raise (s : State) (cause : FaultCause) (fvalue : Int) : State :=
  { s with status := .fault, fault := ⟨cause, s.pc, fvalue⟩ }

/-- ReservedRegisterError: it records no value, 0 (R150, R152). DEDUCED: log entry 7. -/
def State.raiseReserved (s : State) : State := s.raise .reservedRegister 0

/-- The protected write port with the pc it ends on: refused for register 0, whatever the value (R74). -/
def writeBack (d : RegIdx) (v : Word) (nextPc : Int) (s : State) : Result :=
  if d = 0#4 then .next s.raiseReserved
  else .next ((s.setReg d v).setPc nextPc)

/-- `IoRead()`: the first Word of INPUT, or none, which holds the machine (R132, R134). -/
def State.ioRead (s : State) : Option (Word × State) :=
  match s.input with
  | [] => none
  | w :: rest => some (w, { s with input := rest })

/-- `IoWrite(v)`: the Word appended to OUTPUT (R133). -/
def State.ioWrite (s : State) (v : Word) : State := { s with output := s.output ++ [v] }

/-- `MemRead(a, 1)`: a data read; at 0xFF an input Word is first taken into the cell (R34). None is a hold. -/
def State.memRead (s : State) (a : Addr) : Option (Word × State) :=
  if a = Config.ioAddr then
    match s.ioRead with
    | none => none
    | some (w, s') => some ((s'.setCell a w).cell a, s'.setCell a w)
  else some (s.cell a, s)

/-- `MemWrite(a, 1, v)`: a data write; at 0xFF the Word is emitted as well (R35). -/
def State.memWrite (s : State) (a : Addr) (v : Word) : State :=
  if a = Config.ioAddr then (s.setCell a v).ioWrite v else s.setCell a v

/-- A load once its address is known and register 0 is ruled out: the data read, the register, `pc + 1`. Where the read
holds, the state answered is the state given: the machine waits with nothing changed (R134). DESIGN CHOICE: log entry 2. -/
def loadInto (d : RegIdx) (a : Addr) (s : State) : Result :=
  match s.memRead a with
  | none => .next s
  | some (v, s') => .next ((s'.setReg d v).advance)

/-- A store once its address is known: the data write and `pc + 1` (R102, R104). -/
def storeFrom (v : Word) (a : Addr) (s : State) : Result := .next (s.memWrite a v).advance

/-- DataAddressFault: it records the address register's magnitude (R150, R155). -/
def State.raiseDataAddress (s : State) (t : RegIdx) : State :=
  s.raise .dataAddress (magnitude (s.reg t) : Int)

/-- The raw instruction fetch, not through the gateway; none when `pc` is outside memory (R36). -/
def State.fetch (s : State) : Option Word :=
  match addrOfInt s.pc with
  | none => none
  | some a => some (s.cell a)

/-- FetchAddressFault: it records no value, 0; `fpc` is the bad pc (R150, R154). DEDUCED: log entry 7. -/
def State.raiseFetchAddress (s : State) : State := s.raise .fetchAddress 0

end Sys2Proof.Machine
end

