-- ==== Sys2Proof/Machine/Access.lean ====
section
/-! DEFINITION. The memory and register access instructions, opcodes 7 to B (spec/42_memory_access.md). -/

namespace Sys2Proof.Machine

/-- LDI (R100). -/
def execLdi (d : RegIdx) (addr : Addr) (s : State) : Result :=
  writeBack d (immediate addr) (s.pc + 1) s

/-- LD: the reserved-register check comes before the data read (R101, R75). -/
def execLd (d : RegIdx) (addr : Addr) (s : State) : Result :=
  if d = 0#4 then .next s.raiseReserved else loadInto d addr s

/-- ST: `d` names the source, 0 allowed (R102). -/
def execSt (d : RegIdx) (addr : Addr) (s : State) : Result :=
  storeFrom (s.reg d) addr s

/-- LDX: reserved register, then the address, then the data read (R103, R75). -/
def execLdx (d t : RegIdx) (s : State) : Result :=
  if d = 0#4 then .next s.raiseReserved
  else match s.indirect t with
    | none => .next (s.raiseDataAddress t)
    | some a => loadInto d a s

/-- STX (R104). -/
def execStx (d t : RegIdx) (s : State) : Result :=
  match s.indirect t with
  | none => .next (s.raiseDataAddress t)
  | some a => storeFrom (s.reg d) a s

end Sys2Proof.Machine
end

