-- ==== Sys2Proof/Machine/Alu.lean ====
section
/-! DEFINITION. The ALU instructions, opcodes 1 to 6 (spec/41_alu.md). -/

namespace Sys2Proof.Machine

/-- The common end of the six: the exact result is range-checked, then the write port is tried, then `pc + 1` (R85, R75). -/
def aluFinish (d : RegIdx) (r : Int) (s : State) : Result :=
  if ovf r then .next (s.raise .arithmeticRange r)
  else writeBack d (unsigned r) (s.pc + 1) s

/-- The common end of the two shifts: a negative count faults before the result is computed (R90, R91,
R156). That the magnitude is shifted and a negative count faults are the spec's decisions D6 and D7 (log entry 8). -/
def shiftFinish (d : RegIdx) (f : Nat → Nat → Nat) (m : Word) (count : Word) (s : State) : Result :=
  if signed count < 0 then .next (s.raise .shiftCount (signed count))
  else aluFinish d (f (magnitude m) (signed count).toNat : Int) s

/-- The exact left shift of a magnitude (R90). -/
def shiftLeftExact (m b : Nat) : Nat := m * 2 ^ b

/-- The exact right shift of a magnitude, zeros entering from the left (R91). -/
def shiftRightExact (m b : Nat) : Nat := m / 2 ^ b

/-- ADD (R86). -/
def execAdd (d rs rt : RegIdx) (s : State) : Result :=
  aluFinish d (signed (s.reg rs) + signed (s.reg rt)) s

/-- SUB: `x[s]` minus `x[t]`, in that order (R87). -/
def execSub (d rs rt : RegIdx) (s : State) : Result :=
  aluFinish d (signed (s.reg rs) - signed (s.reg rt)) s

/-- AND (R88). The range check is made, as the source makes it, and never fails. -/
def execAnd (d rs rt : RegIdx) (s : State) : Result :=
  aluFinish d (signed (s.reg rs &&& s.reg rt)) s

/-- XOR (R89). The range check is made, as the source makes it, and never fails. -/
def execXor (d rs rt : RegIdx) (s : State) : Result :=
  aluFinish d (signed (s.reg rs ^^^ s.reg rt)) s

/-- SHL: the magnitude of `x[s]` by the signed count in `x[t]` (R90). -/
def execShl (d rs rt : RegIdx) (s : State) : Result :=
  shiftFinish d shiftLeftExact (s.reg rs) (s.reg rt) s

/-- SHR: the magnitude of `x[s]` by the signed count in `x[t]` (R91). -/
def execShr (d rs rt : RegIdx) (s : State) : Result :=
  shiftFinish d shiftRightExact (s.reg rs) (s.reg rt) s

end Sys2Proof.Machine
end

