-- ==== Sys2Proof/Machine/Control.lean ====
section
/-! DEFINITION. The control instructions, opcodes 0, C, D, E, F (spec/43_control.md). -/

namespace Sys2Proof.Machine

/-- HLT: `status <- HALT`; `pc` keeps the address of the HLT (R115; the spec's decision D11,
log entry 8). -/
def execHlt (s : State) : Result := .next { s with status := .halt }

/-- A conditional branch to an absolute target, else `pc + 1` (R116, R117, R120). -/
def branchIf (c : Bool) (addr : Addr) (s : State) : Result :=
  .next (if c then s.setPc (absTarget addr) else s.advance)

/-- BZ (R116). -/
def execBz (d : RegIdx) (addr : Addr) (s : State) : Result := branchIf (isZero (s.reg d)) addr s

/-- BP, on the signed reading (R117). -/
def execBp (d : RegIdx) (addr : Addr) (s : State) : Result := branchIf (isPositive (s.reg d)) addr s

/-- JR: the register read signed, plus one; the target may lie outside memory (R118). -/
def execJr (d : RegIdx) (s : State) : Result := .next (s.setPc (signed (s.reg d) + 1))

/-- CALL: the link value is the address of the CALL itself (R119). -/
def execCall (d : RegIdx) (addr : Addr) (s : State) : Result :=
  writeBack d (unsigned s.pc) (absTarget addr) s

end Sys2Proof.Machine
end

