-- ==== Sys2Proof/Machine/Dispatch.lean ====
section
/-! DEFINITION. Dispatch: one handler for each of the sixteen opcodes (spec/40_step_and_decode.md R73). -/

namespace Sys2Proof.Machine

def exec (i : Instr) (s : State) : Host.Outcome State Fault Refusal :=
  match i with
  | .hlt => Sys2Proof.Machine.execHlt s
  | .add d rs rt => Sys2Proof.Machine.execAdd d rs rt s
  | .sub d rs rt => Sys2Proof.Machine.execSub d rs rt s
  | .and d rs rt => Sys2Proof.Machine.execAnd d rs rt s
  | .xor d rs rt => Sys2Proof.Machine.execXor d rs rt s
  | .shl d rs rt => Sys2Proof.Machine.execShl d rs rt s
  | .shr d rs rt => Sys2Proof.Machine.execShr d rs rt s
  | .ldi d addr => Sys2Proof.Machine.execLdi d addr s
  | .ld d addr => Sys2Proof.Machine.execLd d addr s
  | .st d addr => Sys2Proof.Machine.execSt d addr s
  | .ldx d t => Sys2Proof.Machine.execLdx d t s
  | .stx d t => Sys2Proof.Machine.execStx d t s
  | .bz d addr => Sys2Proof.Machine.execBz d addr s
  | .bp d addr => Sys2Proof.Machine.execBp d addr s
  | .jr d => Sys2Proof.Machine.execJr d s
  | .call d addr => Sys2Proof.Machine.execCall d addr s

end Sys2Proof.Machine
end

