-- ==== Sys2Proof/Machine/Cycle.lean ====
section
/-! DEFINITION. The step of spec/40_step_and_decode.md R70, R77, and the placing of one instruction where it fetches. -/

namespace Sys2Proof.Machine

/-- One step: none unless the status is RUN (R77; DESIGN CHOICE: log entry 12); a fetch that faults outside memory (R36); else the fetched Word's
instruction (R70). -/
def cycle (s : State) : Result :=
  match s.status with
  | .halt => .fault .halted
  | .fault => .fault .faulted
  | .run =>
    match s.fetch with
    | none => .next s.raiseFetchAddress
    | some ir => exec (decodeWord ir) s

/-- The pc at which `placeInstr` puts its instruction: the state's own where a fetch can reach it, else the entry. -/
def placePc (s : State) : Int :=
  match addrOfInt s.pc with
  | some _ => s.pc
  | none => Config.conventionalEntry

/-- The loader's write of one Word where the next fetch reads (R46), with the two things a fetch needs besides: a pc
inside memory and status RUN. A state that has both keeps them.
DESIGN CHOICE: log entry 13. -/
def placeInstr (s : State) (ir : Word) : State :=
  { s with
    mem := s.mem.writeCell (BitVec.ofNat 8 (placePc s).toNat) ir
    pc := placePc s
    status := .run }

end Sys2Proof.Machine
end

