-- ==== Sys2Proof/Machine/Step.lean ====
section
/-! DEFINITION. The step function, and a state with one instruction placed where it fetches (spec/40_step_and_decode.md R70). -/

namespace Sys2Proof.Machine

/-- One step of the machine (R70): `cycle`. -/
def step : State → Host.Outcome State Fault Refusal := cycle

/-- The state with the one-Word instruction whose low `nbits` bits are `w` placed where `step` fetches next. -/
def State.withFetchWord (s : State) (nbits w : Nat) : State :=
  placeInstr s (BitVec.ofNat 16 (w % 2 ^ nbits))

end Sys2Proof.Machine
end

