-- ==== Sys2Proof/Machine/Boot.lean ====
section
/-! DEFINITION. Reset and the loader: what the host does to the machine between steps (spec/70_reset_and_hazards.md R180
to R183, spec/20_memory.md R46). No instruction calls these. -/

namespace Sys2Proof.Machine

/-- One raw cell written by the loader, if the image covers it; nothing is emitted, 0xFF included (R46). -/
def loadCell (image : Addr → Option Word) (m : Memory) (n : Nat) : Memory :=
  match image (BitVec.ofNat 8 n) with
  | some w => m.writeCell (BitVec.ofNat 8 n) w
  | none => m

/-- The loader: every cell of the image's domain written into the cleared memory (R180, R181). -/
def loadImage (image : Addr → Option Word) : Memory :=
  (List.range Config.memWords).foldl (loadCell image) []

/-- `Reset(IMAGE, ENTRY_PC)`, at any time and in any status (R180): the one way out of HALT and FAULT (R160). The
configuration bits and INPUT belong to the environment and are not touched. `fpc` and `fvalue` have no stated value:
0, as in `State.reset` (log entry 4). -/
def State.boot (s : State) (image : Addr → Option Word) (entryPc : Int) : State :=
  { s with
    regs := Vector.replicate 16 0
    mem := loadImage image
    status := .run
    fault := ⟨.none, 0, 0⟩
    output := []
    pc := entryPc }

/-- The environment sets the configuration inputs, before a run (R19). -/
def State.configure (s : State) (asciiIo debugTrace : Bool) : State :=
  { s with asciiIo := asciiIo, debugTrace := debugTrace }

end Sys2Proof.Machine
end

