-- ==== Sys2Proof/Machine/Console.lean ====
section
/-! DEFINITION. The console: a Word supplied to the input port, and the text adapter beyond the word ports
(spec/44_io_gateway.md R131, R134 to R136). No instruction calls these. -/

namespace Sys2Proof.Machine

/-- The console supplies one Word: the only thing that lifts a hold (R134). -/
def State.supplyInput (s : State) (w : Word) : State := { s with input := s.input ++ [w] }

/-- A letter digit, in the case the spec leaves open (HEX_CASE; log entry 9). -/
def hexLetter (lower upper : Char) : Char := if Config.hexUpper then upper else lower

/-- One hexadecimal digit. -/
def hexDigit (n : BitVec 4) : Char :=
  match n.toNat with
  | 0 => '0' | 1 => '1' | 2 => '2' | 3 => '3' | 4 => '4' | 5 => '5' | 6 => '6' | 7 => '7' | 8 => '8' | 9 => '9'
  | 10 => hexLetter 'a' 'A' | 11 => hexLetter 'b' 'B' | 12 => hexLetter 'c' 'C'
  | 13 => hexLetter 'd' 'D' | 14 => hexLetter 'e' 'E' | _ => hexLetter 'f' 'F'

/-- `<hex4>`: the magnitude in four hexadecimal digits, leading zeros kept (R136). -/
def hex4 (w : Word) : List Char :=
  [hexDigit (w.extractLsb' 12 4), hexDigit (w.extractLsb' 8 4), hexDigit (w.extractLsb' 4 4), hexDigit (w.extractLsb' 0 4)]

/-- The decimal digits of a number below ten to the `fuel`, no leading zeros; zero gives none. -/
def decDigits : (fuel : Nat) → Nat → List Char
  | 0, _ => []
  | fuel + 1, n => if n = 0 then [] else decDigits fuel (n / 10) ++ [Char.ofNat (48 + n % 10)]

/-- A signed decimal with a minus sign when negative (R136). Five digits hold every Word's reading. -/
def decimal (v : Int) : List Char :=
  if v = 0 then ['0'] else if v < 0 then '-' :: decDigits 5 v.natAbs else decDigits 5 v.natAbs

/-- `<decoded>` (R136): with ASCII mode on, the character whose code point is the Word's magnitude (92 D14), open where that
is no printable character (91 N7; log entry 10); with it off, the signed reading. -/
def decoded (asciiIo : Bool) (w : Word) : List Char :=
  if asciiIo then
    if isPrintable w then [Char.ofNat w.toNat] else Config.openGlyph w
  else decimal (signed w)

/-- The text line the adapter emits for one output Word (R136). -/
def consoleLine (asciiIo : Bool) (w : Word) : List Char :=
  ['>', ' '] ++ hex4 w ++ [',', ' '] ++ decoded asciiIo w

/-- What the console shows of a state: one line for each Word of OUTPUT (R136). -/
def State.consoleText (s : State) : List (List Char) := s.output.map (consoleLine s.asciiIo)

/-- The value of a digit character in a radix, if it is one there. -/
def digitValue (hex : Bool) (c : Char) : Option Nat :=
  let n := c.toNat
  if 48 ≤ n ∧ n ≤ 57 then some (n - 48)
  else if hex = true ∧ 65 ≤ n ∧ n ≤ 70 then some (n - 55)
  else if hex = true ∧ 97 ≤ n ∧ n ≤ 102 then some (n - 87)
  else none

/-- The number a line of plain digits writes, read on from `acc`; none where a character is no digit of the radix. -/
def lineNumber (hex : Bool) (acc : Nat) : List Char → Option Nat
  | [] => some acc
  | c :: rest =>
    match digitValue hex c with
    | none => none
    | some v => lineNumber hex (acc * (if hex then 16 else 10) + v) rest

/-- The Word of an input line with ASCII mode off: the number written on it, in the radix the spec leaves open. A line
that is no plain 16-bit number is open (91 N7; log entries 9 and 10). -/
def numberInput (line : List Char) : Word :=
  match line, lineNumber Config.inputIsHex 0 line with
  | _ :: _, some n => if n < 65536 then BitVec.ofNat 16 n else Config.openNumberInput line
  | _, _ => Config.openNumberInput line

/-- The Word of an input line with ASCII mode on: its first character's code; the rest is discarded (R135). -/
def asciiInput (line : List Char) : Word :=
  match line with
  | c :: _ => if c.toNat < 65536 then BitVec.ofNat 16 c.toNat else Config.openAsciiInput line
  | [] => Config.openAsciiInput line

/-- The user types one line, and the adapter delivers its Word (R135). -/
def State.typeLine (s : State) (line : List Char) : State :=
  s.supplyInput (if s.asciiIo then asciiInput line else numberInput line)

end Sys2Proof.Machine
end

