-- ==== Sys2Proof/Machine/Ports.lean ====
section
/-! DEFINITION. The outputs of the block that only read its state: halted, the fatal error channel, the trace tap
(spec/10_state.md R23, spec/40_step_and_decode.md R78, spec/60_exceptions.md R150, R161). -/

namespace Sys2Proof.Machine

/-- The numeric code of a cause (R150). -/
def FaultCause.code : FaultCause → Nat
  | .none => 0
  | .arithmeticRange => 1
  | .reservedRegister => 2
  | .invalidOpcode => 3
  | .fetchAddress => 4
  | .dataAddress => 5
  | .shiftCount => 6

/-- The halted output (R23). -/
def State.haltedOut (s : State) : Bool := decide (s.status = .halt)

/-- The fatal error channel: the record, while the status is FAULT (R161). -/
def State.fatalError (s : State) : Option FaultRecord := if s.status = .fault then some s.fault else none

/-- What the trace tap shows before an instruction executes (R78, R23). -/
structure TraceRecord where
  /-- The pc, the address of the instruction about to execute. -/
  pc     : Int
  /-- Its Word. -/
  ir     : Word
  /-- Its five fields. -/
  fields : Fields
  /-- The registers it will read, with the values they hold. -/
  regs   : List (RegIdx × Word)
  /-- The cell a load will read, with the raw value it holds. -/
  cell   : Option (Addr × Word)
  deriving DecidableEq, Repr

/-- The trace tap: nothing unless `debug_trace` is true and an instruction is about to execute. It reads raw cells only,
never the gateway (R78). DESIGN CHOICE: log entry 14. -/
def State.trace (s : State) : Option TraceRecord :=
  if s.debugTrace = true ∧ s.status = .run then
    match s.fetch with
    | none => none
    | some ir => some
      { pc := s.pc
        ir := ir
        fields := Fields.ofWord ir
        regs := (regsRead (decodeWord ir)).map (fun r => (r, s.reg r))
        cell := (loadAddr (decodeWord ir) s).map (fun a => (a, s.cell a)) }
  else none

end Sys2Proof.Machine
end

