-- ==== Sys2Proof/Safety.lean ====
section
/-! DEFINITION. What counts as a safe run: the invariants of the machine (spec/10_state.md R24) and the outcome of a step
that claims speak of. -/

namespace Sys2Proof.Machine

/-- The state an outcome goes on in, if it does. -/
def nextState : Result → Option State
  | .next s => some s
  | .fault _ => none
  | .refused _ => none

/-- The values `pc` can take: -32767 .. 32768 (R13). -/
abbrev pcInRange (v : Int) : Prop := -32767 ≤ v ∧ v ≤ 32768

/-- Whether memory has a cell for an instruction at this pc (R36). -/
abbrev fetchable (v : Int) : Prop := 0 ≤ v ∧ v ≤ 255

/-- What a fault record says of the step that wrote it, cause by cause (R150). That the value is 0 under ReservedRegisterError
and FetchAddressFault is DEDUCED (log entry 7), and that InvalidOpcode never stands there is the spec's decision D17. -/
def FaultRecord.coherent (f : FaultRecord) : Prop :=
  match f.cause with
  | .none => True
  | .arithmeticRange => fetchable f.fpc ∧ ovf f.fvalue = true
  | .reservedRegister => fetchable f.fpc ∧ f.fvalue = 0
  | .invalidOpcode => False
  | .fetchAddress => ¬ fetchable f.fpc ∧ f.fvalue = 0
  | .dataAddress => fetchable f.fpc ∧ 255 < f.fvalue ∧ f.fvalue ≤ 65535
  | .shiftCount => fetchable f.fpc ∧ -32768 ≤ f.fvalue ∧ f.fvalue < 0

/-- The invariant of the machine: memory in its canonical form inside the 256 cells, register 0 holding 0, `pc` in its
range unless the machine has halted (R13, R24; no claim reads `pc` after a HLT: 91 N23, 93 U7), and a fault record that is there exactly when the status is FAULT, with the pc it was raised at and
what R150 gives its cause (R17, R158). -/
structure State.Inv (s : State) : Prop where
  memWf : s.mem.wf
  regZero : s.reg 0#4 = 0#16
  pcRange : s.status ≠ .halt → pcInRange s.pc
  faultIff : s.status = .fault ↔ s.fault.cause ≠ .none
  faultPc : s.status = .fault → s.fault.fpc = s.pc
  faultCoherent : s.fault.coherent

end Sys2Proof.Machine
end

