-- ==== Sys2Proof/Certificates/Slice0/Obligations.lean ====
section
/-! DEFINITION. The statements for the provers, each from a rule of the spec. In them `s` is the state before and `t` the
state after. -/

open Sys2Proof Sys2Proof.Machine

/-! ### The words the statements are made of -/

/-- Every register reads as before. -/
def Sys2Proof.Claims.RegsKept (s t : State) : Prop := ∀ r : RegIdx, t.reg r = s.reg r

/-- Register `d` reads `v`, and every other register reads as before. -/
def Sys2Proof.Claims.RegSet (d : RegIdx) (v : Word) (s t : State) : Prop :=
  t.reg d = v ∧ ∀ r : RegIdx, r ≠ d → t.reg r = s.reg r

/-- Every byte of memory reads as before. -/
def Sys2Proof.Claims.MemKept (s t : State) : Prop := ∀ b : Nat, t.mem.readByte b = s.mem.readByte b

/-- The cell at `a` reads `v`, and every byte outside its two reads as before. -/
def Sys2Proof.Claims.CellSet (a : Addr) (v : Word) (s t : State) : Prop :=
  t.cell a = v ∧ ∀ b : Nat, b ≠ hiSlot a → b ≠ loSlot a → t.mem.readByte b = s.mem.readByte b

/-- The status, the fault record and the configuration bits are as before. -/
def Sys2Proof.Claims.ControlKept (s t : State) : Prop :=
  t.status = s.status ∧ t.fault = s.fault ∧ t.asciiIo = s.asciiIo ∧ t.debugTrace = s.debugTrace

/-- INPUT and OUTPUT are as before. -/
def Sys2Proof.Claims.StreamsKept (s t : State) : Prop := t.input = s.input ∧ t.output = s.output

/-- The fault entry of R158: the record and the status are written, and everything else is as before. -/
def Sys2Proof.Claims.FaultTaken (c : FaultCause) (v : Int) (s t : State) : Prop :=
  t.status = .fault ∧ t.fault = ⟨c, s.pc, v⟩ ∧ t.pc = s.pc ∧ Claims.RegsKept s t ∧ Claims.MemKept s t ∧
    Claims.StreamsKept s t ∧ t.asciiIo = s.asciiIo ∧ t.debugTrace = s.debugTrace

/-- The exact result does not fit a Word's signed reading (R85). -/
abbrev Sys2Proof.Claims.OutOfRange (r : Int) : Prop := r < -32768 ∨ 32767 < r

/-- `i` answers the fault entry of `c` with the value `v`. -/
def Sys2Proof.Claims.Faults (i : Instr) (c : FaultCause) (v : Int) (s : State) : Prop :=
  ∃ t, exec i s = .next t ∧ Claims.FaultTaken c v s t

/-- `i` completes with `v` in register `d`, the program counter at `p`, and everything else as before. -/
def Sys2Proof.Claims.SetsReg (i : Instr) (d : RegIdx) (v : Word) (p : Int) (s : State) : Prop :=
  ∃ t, exec i s = .next t ∧ Claims.RegSet d v s t ∧ t.pc = p ∧ Claims.MemKept s t ∧ Claims.ControlKept s t ∧
    Claims.StreamsKept s t

/-- `i` completes with the program counter at `p` and everything else as before. -/
def Sys2Proof.Claims.SetsPc (i : Instr) (p : Int) (s : State) : Prop :=
  ∃ t, exec i s = .next t ∧ t.pc = p ∧ Claims.RegsKept s t ∧ Claims.MemKept s t ∧ Claims.ControlKept s t ∧
    Claims.StreamsKept s t

/-- The write into `d` with its protection (R74): ReservedRegisterError for register 0, else the write. That the record's value
is 0 there is DEDUCED (log entry 7). -/
def Sys2Proof.Claims.WritesProtected (i : Instr) (d : RegIdx) (v : Word) (p : Int) (s : State) : Prop :=
  (d = 0#4 → Claims.Faults i .reservedRegister 0 s) ∧ (d ≠ 0#4 → Claims.SetsReg i d v p s)

/-- The skeleton of R85 for the exact result `r` stored as `v`: the range fault first, then the protected write. -/
def Sys2Proof.Claims.AluSkeleton (i : Instr) (d : RegIdx) (r : Int) (v : Word) (s : State) : Prop :=
  (Claims.OutOfRange r → Claims.Faults i .arithmeticRange r s) ∧
    (¬ Claims.OutOfRange r → Claims.WritesProtected i d v (s.pc + 1) s)

/-- A load into `d`, not register 0, from the address `a` (R34, R101): below 0xFF the cell; at 0xFF the first input Word,
deposited in the cell as well; with no input the machine waits, its state unchanged. -/
def Sys2Proof.Claims.Loads (i : Instr) (d : RegIdx) (a : Addr) (s : State) : Prop :=
  (a ≠ 0xFF#8 → Claims.SetsReg i d (s.cell a) (s.pc + 1) s) ∧
    (a = 0xFF#8 → s.input = [] → exec i s = .next s) ∧
    (∀ w rest, a = 0xFF#8 → s.input = w :: rest →
      ∃ t, exec i s = .next t ∧ Claims.RegSet d w s t ∧ Claims.CellSet 0xFF#8 w s t ∧ t.pc = s.pc + 1 ∧
        t.input = rest ∧ t.output = s.output ∧ Claims.ControlKept s t)

/-- A store of `v` to the address `a` (R35, R102): the cell, and at 0xFF the Word emitted as well. -/
def Sys2Proof.Claims.Stores (i : Instr) (v : Word) (a : Addr) (s : State) : Prop :=
  ∃ t, exec i s = .next t ∧ Claims.CellSet a v s t ∧ Claims.RegsKept s t ∧ t.pc = s.pc + 1 ∧ t.input = s.input ∧
    t.output = (if a = 0xFF#8 then s.output ++ [v] else s.output) ∧ Claims.ControlKept s t

/-- The address of the cell an instruction may change (R34, R35): a store's address, or 0xFF for a load from it. -/
def Sys2Proof.Claims.cellChanged (i : Instr) (s : State) : Option Addr :=
  match storeAddr i s with
  | some a => some a
  | none => if loadAddr i s = some 0xFF#8 then some 0xFF#8 else none

/-- The exact result of an ALU instruction (R86 to R91), the magnitude shifted (92 D6); 0 for the others, which compute none. -/
def Sys2Proof.Claims.exactResult (i : Instr) (s : State) : Int :=
  match i with
  | .add _ rs rt => signed (s.reg rs) + signed (s.reg rt)
  | .sub _ rs rt => signed (s.reg rs) - signed (s.reg rt)
  | .and _ rs rt => signed (s.reg rs &&& s.reg rt)
  | .xor _ rs rt => signed (s.reg rs ^^^ s.reg rt)
  | .shl _ rs rt => ((s.reg rs).toNat * 2 ^ (signed (s.reg rt)).toNat : Nat)
  | .shr _ rs rt => ((s.reg rs).toNat / 2 ^ (signed (s.reg rt)).toNat : Nat)
  | .hlt | .ldi _ _ | .ld _ _ | .st _ _ | .ldx _ _ | .stx _ _ | .bz _ _ | .bp _ _ | .jr _ | .call _ _ => 0

/-- The count of a shift (R90, R91); 0 for the others, which have none. -/
def Sys2Proof.Claims.shiftCount (i : Instr) (s : State) : Int :=
  match i with
  | .shl _ _ rt | .shr _ _ rt => signed (s.reg rt)
  | .hlt | .add _ _ _ | .sub _ _ _ | .and _ _ _ | .xor _ _ _ | .ldi _ _ | .ld _ _ | .st _ _ | .ldx _ _ | .stx _ _
  | .bz _ _ | .bp _ _ | .jr _ | .call _ _ => 0

/-- The magnitude of the address register of an indirect access (R37); 0 for the others, which have none. -/
def Sys2Proof.Claims.indirectAddress (i : Instr) (s : State) : Nat :=
  match i with
  | .ldx _ rt | .stx _ rt => (s.reg rt).toNat
  | .hlt | .add _ _ _ | .sub _ _ _ | .and _ _ _ | .xor _ _ _ | .shl _ _ _ | .shr _ _ _ | .ldi _ _ | .ld _ _ | .st _ _
  | .bz _ _ | .bp _ _ | .jr _ | .call _ _ => 0

/-- The cause and the value of the fault an instruction raises, if it raises one: the first condition that holds in the
order of R157 (the spec's decision 92 D8), with the value R150 names (0 under ReservedRegisterError: log entry 7). -/
def Sys2Proof.Claims.firstFault (i : Instr) (s : State) : Option (FaultCause × Int) :=
  if Claims.shiftCount i s < 0 then some (.shiftCount, Claims.shiftCount i s)
  else if Claims.OutOfRange (Claims.exactResult i s) then some (.arithmeticRange, Claims.exactResult i s)
  else if regWritten i = some 0#4 then some (.reservedRegister, 0)
  else if 255 < Claims.indirectAddress i s then some (.dataAddress, (Claims.indirectAddress i s : Int))
  else none

/-! ### Words and encodings -/

/-- R5 and R6: the signed reading of a Word, the Word of an integer, and the round trips between them. -/
def Obligations.SignedAndUnsignedReadings : Prop :=
  (∀ w : Word, signed w = if w.toNat ≤ 32767 then (w.toNat : Int) else (w.toNat : Int) - 65536) ∧
  (∀ w : Word, -32768 ≤ signed w ∧ signed w ≤ 32767) ∧
  (∀ v : Int, -32768 ≤ v → v ≤ 65535 → ((unsigned v).toNat : Int) = if 0 ≤ v then v else v + 65536) ∧
  (∀ v : Int, -32768 ≤ v → v ≤ 32767 → signed (unsigned v) = v) ∧
  (∀ w : Word, unsigned (signed w) = w ∧ signed (unsigned (w.toNat : Int)) = signed w)

/-- R51: the five fields of a Word by their digits, the Word rebuilt from them, and every well-formed five-field form
recovered from its Word. -/
def Obligations.FieldsAreTheDigitsOfTheWord : Prop :=
  (∀ w : Word,
    (Fields.ofWord w).op.toNat = w.toNat / 4096 ∧ (Fields.ofWord w).d.toNat = w.toNat / 256 % 16 ∧
    (Fields.ofWord w).s.toNat = w.toNat / 16 % 16 ∧ (Fields.ofWord w).t.toNat = w.toNat % 16 ∧
    (Fields.ofWord w).addr.toNat = w.toNat % 256 ∧ (Fields.ofWord w).wf = true ∧ (Fields.ofWord w).toWord = w) ∧
  ∀ f : Fields, f.wf = true → Fields.ofWord f.toWord = f

/-- Decode and encode agree for every instruction, every operand at every value (R51, R52, R54, R56). -/
def Obligations.DecodeOfEncodeIsTheInstruction : Prop := ∀ i : Instr, decodeWord (encode i) = i

/-- The encoder gives back every Word up to the fields its instruction does not use (R52, R56). -/
def Obligations.EncodeOfDecodeKeepsUsedFields : Prop :=
  ∀ w : Word, (encode (decodeWord w)).toNat =
    if w.toNat / 4096 = 0 then 0
    else if w.toNat / 4096 = 10 ∨ w.toNat / 4096 = 11 then w.toNat / 256 * 256 + w.toNat % 16
    else if w.toNat / 4096 = 14 then w.toNat / 256 * 256
    else w.toNat

/-- R54 and R73: the most significant digit alone selects the instruction. -/
def Obligations.OpcodeDigitSelectsTheInstruction : Prop :=
  ∀ w : Word, (decodeWord w).opcode.toNat = w.toNat / 4096

/-- R56, which the spec marks as its own decision (92 D16): bits an instruction does not use do not change it. -/
def Obligations.UnusedFieldsDoNotChangeTheInstruction : Prop :=
  ∀ w w' : Word, w.toNat / 4096 = w'.toNat / 4096 →
    (w.toNat / 4096 = 0 → decodeWord w = decodeWord w') ∧
    (w.toNat / 4096 = 14 → w.toNat / 256 = w'.toNat / 256 → decodeWord w = decodeWord w') ∧
    (w.toNat / 4096 = 10 ∨ w.toNat / 4096 = 11 → w.toNat / 256 = w'.toNat / 256 → w.toNat % 16 = w'.toNat % 16 →
      decodeWord w = decodeWord w')

/-- Words of the decoder vectors (95, 2.11), one at least of each family, decode as the spec lists them. -/
def Obligations.SpecDecoderVectorsDecode : Prop :=
  decodeWord 0x0000 = .hlt ∧ decodeWord 0x1234 = .add 2 3 4 ∧ decodeWord 0x7A2A = .ldi 0xA 0x2A ∧
  decodeWord 0x8BCD = .ld 0xB 0xCD ∧ decodeWord 0xA5E6 = .ldx 5 6 ∧ decodeWord 0xC0FF = .bz 0 0xFF ∧
  decodeWord 0xEF00 = .jr 0xF ∧ decodeWord 0xFFFF = .call 0xF 0xFF

/-! ### The step, reset and the invariant -/

/-- R70: in status RUN with `pc` inside memory, a step is the instruction of the raw cell at `pc`, the cell at 0xFF
included (R36; not intercepted by the spec's decision 92 D10). -/
def Obligations.StepRunsTheDecodedInstruction : Prop :=
  ∀ (s : State) (a : Addr), s.status = .run → s.pc = (a.toNat : Int) → step s = exec (decodeWord (s.cell a)) s

/-- A step with `pc` outside 0 .. 255 takes FetchAddressFault and changes nothing else: the spec's own decision 92 D4. That
the record's value is 0 is DEDUCED (log entry 7). -/
def Obligations.FetchOutsideMemoryFaults : Prop :=
  ∀ s : State, s.status = .run → ¬ (0 ≤ s.pc ∧ s.pc ≤ 255) →
    ∃ t, step s = .next t ∧ Claims.FaultTaken .fetchAddress 0 s t

/-- R77: in HALT and in FAULT no step exists. -/
def Obligations.TerminalStatesHaveNoStep : Prop :=
  ∀ s : State, s.status ≠ .run → ∀ t, step s ≠ .next t

/-- The placing of an instruction serves its purpose: the very next step runs exactly that instruction. -/
def Obligations.PlacedInstructionIsTheOneStepped : Prop :=
  ∀ (s : State) (ir : Word),
    step (s.withFetchWord 16 ir.toNat) = exec (decodeWord ir) (s.withFetchWord 16 ir.toNat)

/-- The invariant of the machine is kept by every step, from any state that meets it (R24). Of its clauses, that a record's
value is 0 for two causes is DEDUCED (log entry 7), and the range of `pc` and the absence of InvalidOpcode are the
spec's decisions 92 D3 and D17 (log entry 8). It says nothing of `pc` in HALT. -/
def Obligations.StepKeepsTheInvariant : Prop :=
  ∀ s t : State, s.Inv → step s = .next t → t.Inv

/-- The reset state meets the invariant. -/
def Obligations.ResetMeetsTheInvariant : Prop := State.reset.Inv

/-- Reset with any image and an entry in the range of `pc` meets the invariant. -/
def Obligations.BootMeetsTheInvariant : Prop :=
  ∀ (s : State) (image : Addr → Option Word) (entry : Int), pcInRange entry → (s.boot image entry).Inv

/-- The state after reset and loading (R25). The fields R25 leaves unspecified (`fpc`, `fvalue`) are not spoken of. That the
configuration bits stay is R180's, and that INPUT stays is the model's choice (log entry 5). -/
def Obligations.ResetAndLoadingValues : Prop :=
  ∀ (s : State) (image : Addr → Option Word) (entry : Int) (t : State), t = s.boot image entry →
    (∀ r : RegIdx, t.reg r = 0) ∧ (∀ a : Addr, t.cell a = (image a).getD 0) ∧ t.pc = entry ∧ t.status = .run ∧
    t.fault.cause = .none ∧ t.output = [] ∧ t.input = s.input ∧ t.asciiIo = s.asciiIo ∧ t.debugTrace = s.debugTrace

/-! ### The instructions, one statement each -/

/-- ADD (R86). That the record's value is 0 under ReservedRegisterError is DEDUCED (log entry 7). -/
def Obligations.AddStoresTheSumOrFaults : Prop :=
  ∀ (d rs rt : RegIdx) (s : State),
    Claims.AluSkeleton (.add d rs rt) d (signed (s.reg rs) + signed (s.reg rt))
      (unsigned (signed (s.reg rs) + signed (s.reg rt))) s

/-- SUB. The operand order is the spec's reading of the source (91 N6), marked so in its rule. That the record's value is 0
under ReservedRegisterError is DEDUCED (log entry 7). -/
def Obligations.SubStoresTheDifferenceOrFaults : Prop :=
  ∀ (d rs rt : RegIdx) (s : State),
    Claims.AluSkeleton (.sub d rs rt) d (signed (s.reg rs) - signed (s.reg rt))
      (unsigned (signed (s.reg rs) - signed (s.reg rt))) s

/-- AND, bit by bit (R88). That there is no range fault is the spec's own derivation, and that the record's value is 0 under
ReservedRegisterError is DEDUCED (log entry 7). -/
def Obligations.AndStoresTheBitwiseAnd : Prop :=
  ∀ (d rs rt : RegIdx) (s : State),
    Claims.WritesProtected (.and d rs rt) d (s.reg rs &&& s.reg rt) (s.pc + 1) s

/-- XOR, bit by bit (R89). That there is no range fault is the spec's own derivation, and that the record's value is 0 under
ReservedRegisterError is DEDUCED (log entry 7). -/
def Obligations.XorStoresTheBitwiseXor : Prop :=
  ∀ (d rs rt : RegIdx) (s : State),
    Claims.WritesProtected (.xor d rs rt) d (s.reg rs ^^^ s.reg rt) (s.pc + 1) s

/-- SHL. That the magnitude is shifted, that a negative count faults and the order of the causes are the spec's own decisions
(92 D6, D7, D8). That the record's value is 0 under ReservedRegisterError is DEDUCED (log entry 7). -/
def Obligations.ShlShiftsTheMagnitudeLeftOrFaults : Prop :=
  ∀ (d rs rt : RegIdx) (s : State),
    (signed (s.reg rt) < 0 → Claims.Faults (.shl d rs rt) .shiftCount (signed (s.reg rt)) s) ∧
    (0 ≤ signed (s.reg rt) →
      Claims.AluSkeleton (.shl d rs rt) d ((s.reg rs).toNat * 2 ^ (signed (s.reg rt)).toNat : Nat)
        (BitVec.ofNat 16 ((s.reg rs).toNat * 2 ^ (signed (s.reg rt)).toNat)) s)

/-- SHR. That the magnitude is shifted, that a negative count faults and the order of the causes are the spec's own decisions
(92 D6, D7, D8). That the record's value is 0 under ReservedRegisterError is DEDUCED (log entry 7). -/
def Obligations.ShrShiftsTheMagnitudeRightOrFaults : Prop :=
  ∀ (d rs rt : RegIdx) (s : State),
    (signed (s.reg rt) < 0 → Claims.Faults (.shr d rs rt) .shiftCount (signed (s.reg rt)) s) ∧
    (0 ≤ signed (s.reg rt) →
      Claims.AluSkeleton (.shr d rs rt) d ((s.reg rs).toNat / 2 ^ (signed (s.reg rt)).toNat : Nat)
        (BitVec.ofNat 16 ((s.reg rs).toNat / 2 ^ (signed (s.reg rt)).toNat)) s)

/-- LDI (R100). That the record's value is 0 under ReservedRegisterError is DEDUCED (log entry 7). -/
def Obligations.LdiStoresTheImmediate : Prop :=
  ∀ (d : RegIdx) (addr : Addr) (s : State),
    Claims.WritesProtected (.ldi d addr) d (BitVec.ofNat 16 addr.toNat) (s.pc + 1) s

/-- LD (R101). The check before the I/O read is the spec's decision (92 D9), and that a held step answers the unchanged state
is the model's choice (log entry 2). That the record's value is 0 under ReservedRegisterError is DEDUCED (log entry 7). -/
def Obligations.LdLoadsTheCellOrTheInputWord : Prop :=
  ∀ (d : RegIdx) (addr : Addr) (s : State),
    (d = 0#4 → Claims.Faults (.ld d addr) .reservedRegister 0 s) ∧
    (d ≠ 0#4 → Claims.Loads (.ld d addr) d addr s)

/-- R102: ST. -/
def Obligations.StStoresTheRegister : Prop :=
  ∀ (d : RegIdx) (addr : Addr) (s : State), Claims.Stores (.st d addr) (s.reg d) addr s

/-- LDX (R103). That an address above 0x00FF faults, and after the register check, are the spec's own decisions (92 D5, D8);
that a held step answers the unchanged state is the model's choice (log entry 2), and that the record's value is 0 under
ReservedRegisterError is DEDUCED (log entry 7). -/
def Obligations.LdxLoadsThroughTheAddressRegister : Prop :=
  ∀ (d rt : RegIdx) (s : State),
    (d = 0#4 → Claims.Faults (.ldx d rt) .reservedRegister 0 s) ∧
    (d ≠ 0#4 → 255 < (s.reg rt).toNat → Claims.Faults (.ldx d rt) .dataAddress ((s.reg rt).toNat : Int) s) ∧
    (d ≠ 0#4 → (s.reg rt).toNat ≤ 255 →
      ∃ a : Addr, s.indirect rt = some a ∧ a.toNat = (s.reg rt).toNat ∧ Claims.Loads (.ldx d rt) d a s)

/-- STX (R104). That an address above 0x00FF faults is the spec's own decision (92 D5). -/
def Obligations.StxStoresThroughTheAddressRegister : Prop :=
  ∀ (d rt : RegIdx) (s : State),
    (255 < (s.reg rt).toNat → Claims.Faults (.stx d rt) .dataAddress ((s.reg rt).toNat : Int) s) ∧
    ((s.reg rt).toNat ≤ 255 →
      ∃ a : Addr, s.indirect rt = some a ∧ a.toNat = (s.reg rt).toNat ∧ Claims.Stores (.stx d rt) (s.reg d) a s)

/-- HLT (R115). What `pc` holds after it is the spec's own decision (92 D11), and not spoken of here. -/
def Obligations.HltEndsTheRun : Prop :=
  ∀ s : State, ∃ t, exec .hlt s = .next t ∧ t.status = .halt ∧ Claims.RegsKept s t ∧ Claims.MemKept s t ∧
    Claims.StreamsKept s t ∧ t.fault = s.fault ∧ t.asciiIo = s.asciiIo ∧ t.debugTrace = s.debugTrace

/-- R116: BZ. -/
def Obligations.BzBranchesOnZero : Prop :=
  ∀ (d : RegIdx) (addr : Addr) (s : State),
    (signed (s.reg d) = 0 → Claims.SetsPc (.bz d addr) (addr.toNat : Int) s) ∧
    (signed (s.reg d) ≠ 0 → Claims.SetsPc (.bz d addr) (s.pc + 1) s)

/-- R117: BP. -/
def Obligations.BpBranchesOnPositive : Prop :=
  ∀ (d : RegIdx) (addr : Addr) (s : State),
    (0 < signed (s.reg d) → Claims.SetsPc (.bp d addr) (addr.toNat : Int) s) ∧
    (signed (s.reg d) ≤ 0 → Claims.SetsPc (.bp d addr) (s.pc + 1) s)

/-- R118: JR. -/
def Obligations.JrJumpsToRegisterPlusOne : Prop :=
  ∀ (d : RegIdx) (s : State), Claims.SetsPc (.jr d) (signed (s.reg d) + 1) s

/-- CALL (R119). That the record's value is 0 under ReservedRegisterError is DEDUCED (log entry 7), and the Word of a `pc`
outside -32768 .. 65535, which no step reaches, is the model's choice (log entry 15). -/
def Obligations.CallSavesItsAddressAndJumps : Prop :=
  ∀ (d : RegIdx) (addr : Addr) (s : State),
    Claims.WritesProtected (.call d addr) d (unsigned s.pc) (addr.toNat : Int) s ∧
    (0 ≤ s.pc → s.pc ≤ 255 → ((unsigned s.pc).toNat : Int) = s.pc)

/-! ### Rules over all instructions -/

/-- Every instruction answers a next state in every state: none is refused and none stops the machine (R55, R162). That a
held load answers one, its state unchanged, is the model's choice (log entry 2). -/
def Obligations.EveryInstructionAnswersANextState : Prop :=
  ∀ (i : Instr) (s : State), ∃ t, exec i s = .next t

/-- A step that raises a fault writes the record and the status, and nothing else (R158); the cause is the first whose
condition holds (R157, the spec's decision 92 D8) and the value is the one R150 names for it, of which the 0 under
ReservedRegisterError and FetchAddressFault is DEDUCED (log entry 7). -/
def Obligations.FaultEntryChangesNothingElse : Prop :=
  ∀ s t : State, step s = .next t → t.status = .fault →
    Claims.FaultTaken t.fault.cause t.fault.fvalue s t ∧ t.fault.cause ≠ .none ∧ t.fault.coherent ∧
      ((¬ fetchable s.pc ∧ t.fault.cause = .fetchAddress ∧ t.fault.fvalue = 0) ∨
        ∃ a : Addr, s.pc = (a.toNat : Int) ∧
          Claims.firstFault (decodeWord (s.cell a)) s = some (t.fault.cause, t.fault.fvalue))

/-- An instruction takes the fault of the first condition that holds for it (R157, the spec's decision 92 D8), with the value
R150 names (0 under ReservedRegisterError: DEDUCED, log entry 7), and where none holds it takes none. The magnitude of a shift
and the causes count and data address are its decisions 92 D5 to D7; a held load answers its unchanged state (log entry 2). -/
def Obligations.InstructionTakesItsFirstFault : Prop :=
  ∀ (i : Instr) (s : State),
    (∀ c v, Claims.firstFault i s = some (c, v) → Claims.Faults i c v s) ∧
    (Claims.firstFault i s = none →
      ∃ t, exec i s = .next t ∧ t.fault = s.fault ∧ t.status = (if i = .hlt then .halt else s.status))

/-- An instruction whose destination is register 0 faults and changes no register, cell or stream (R74). That a negative
count, then a range fault, is reported first is the spec's own decision (92 D8), and that the record's value is 0 under
ReservedRegisterError is DEDUCED (log entry 7). -/
def Obligations.WriteToRegisterZeroFaults : Prop :=
  ∀ (i : Instr) (s : State), regWritten i = some 0#4 →
    (Claims.shiftCount i s < 0 → Claims.Faults i .shiftCount (Claims.shiftCount i s) s) ∧
    (0 ≤ Claims.shiftCount i s → Claims.OutOfRange (Claims.exactResult i s) →
      Claims.Faults i .arithmeticRange (Claims.exactResult i s) s) ∧
    (0 ≤ Claims.shiftCount i s → ¬ Claims.OutOfRange (Claims.exactResult i s) → Claims.Faults i .reservedRegister 0 s)

/-- Frame of the registers, for all sixteen instructions (R12): only the named destination can change. -/
def Obligations.OnlyTheDestinationRegisterChanges : Prop :=
  ∀ (i : Instr) (s t : State) (r : RegIdx), exec i s = .next t → regWritten i ≠ some r → t.reg r = s.reg r

/-- Frame of memory, for all sixteen instructions (R33 to R35): outside the cell stored to, or 0xFF for a load from it, every
byte reads as before. -/
def Obligations.OnlyTheAddressedCellChanges : Prop :=
  ∀ (i : Instr) (s t : State) (b : Nat), exec i s = .next t →
    (∀ a, Claims.cellChanged i s = some a → b ≠ hiSlot a ∧ b ≠ loSlot a) →
    t.mem.readByte b = s.mem.readByte b

/-- Frame of the streams, for all sixteen instructions (R130, R132, R133): OUTPUT gains one Word, the one stored, only by a
store resolving to 0xFF; INPUT loses at most one, only by a load resolving to 0xFF that passes its register check. That
the check comes first is R75's, by the spec's decision 92 D9 (log entry 8). -/
def Obligations.StreamsMoveOnlyAtTheIoAddress : Prop :=
  ∀ (i : Instr) (s t : State), exec i s = .next t →
    t.output = (if storeAddr i s = some 0xFF#8 then s.output ++ [t.cell 0xFF#8] else s.output) ∧
    t.input = (if loadAddr i s = some 0xFF#8 ∧ regWritten i ≠ some 0#4 then s.input.tail else s.input)

/-- No instruction writes the configuration bits, and a step goes the same way whatever they are (R19). -/
def Obligations.ConfigurationBitsHaveNoEffect : Prop :=
  ∀ (s t : State) (a b : Bool), step s = .next t →
    t.asciiIo = s.asciiIo ∧ t.debugTrace = s.debugTrace ∧ step (s.configure a b) = .next (t.configure a b)

/-- An instruction's outcome depends on no register but those R12 says it reads: two states that differ in other registers
alone go on alike, and the destination gets the same Word in both, or keeps its own in both. -/
def Obligations.OutcomeDependsOnlyOnRegistersRead : Prop :=
  ∀ (i : Instr) (s s' t t' : State), s' = { s with regs := s'.regs } → (∀ r ∈ regsRead i, s'.reg r = s.reg r) →
    exec i s = .next t → exec i s' = .next t' →
    t.pc = t'.pc ∧ t.mem = t'.mem ∧ t.status = t'.status ∧ t.fault = t'.fault ∧ t.input = t'.input ∧
    t.output = t'.output ∧
    ∀ d, regWritten i = some d → t.reg d = t'.reg d ∨ (t.reg d = s.reg d ∧ t'.reg d = s'.reg d)

/-- Register 0 is never mutated (R11, R24): by any step, from any state. -/
def Obligations.RegisterZeroIsNeverMutated : Prop :=
  ∀ s t : State, step s = .next t → t.reg 0#4 = s.reg 0#4

/-- HALT is reached by opcode 0 alone (R16, R122). -/
def Obligations.OnlyHltHalts : Prop :=
  ∀ (i : Instr) (s t : State), s.status ≠ .halt → exec i s = .next t → t.status = .halt → i = .hlt

/-- The default next pc (R76): unless it faults or waits, an instruction that is no control instruction ends at `pc + 1`. -/
def Obligations.OtherInstructionsFallThrough : Prop :=
  ∀ (i : Instr) (s t : State), 1 ≤ i.opcode.toNat → i.opcode.toNat ≤ 11 → s.status = .run → exec i s = .next t →
    t.pc = s.pc + 1 ∨ t.status = .fault ∨ (loadAddr i s = some 0xFF#8 ∧ s.input = [] ∧ t = s)

/-- From a pc inside memory a step that does not halt leaves `pc` in -32767 .. 32768 (R13; the spec's decision 92 D3). -/
def Obligations.NextPcStaysInItsRange : Prop :=
  ∀ s t : State, 0 ≤ s.pc → s.pc ≤ 255 → step s = .next t → t.status ≠ .halt → -32767 ≤ t.pc ∧ t.pc ≤ 32768

/-! ### Arithmetic -/

/-- The overflow conditions by sign bits, which the spec derives in R92. -/
def Obligations.OverflowBySignBits : Prop :=
  ∀ x y : Word,
    (ovf (signed x + signed y) = true ↔ x.msb = y.msb ∧ (x + y).msb ≠ x.msb) ∧
    (ovf (signed x - signed y) = true ↔ x.msb ≠ y.msb ∧ (x - y).msb ≠ x.msb)

/-- What an ADD or SUB that does not fault stores is the exact result, nothing wrapped (R93). -/
def Obligations.SumAndDifferenceAreStoredExactly : Prop :=
  ∀ (d rs rt : RegIdx) (s t : State), s.status ≠ .fault → t.status ≠ .fault →
    (exec (.add d rs rt) s = .next t → signed (t.reg d) = signed (s.reg rs) + signed (s.reg rt)) ∧
    (exec (.sub d rs rt) s = .next t → signed (t.reg d) = signed (s.reg rs) - signed (s.reg rt))

/-- What a SHL or SHR that does not fault stores is the exact result on the magnitude (R93; that the magnitude is
shifted and that a negative count faults are the spec's decisions 92 D6 and D7). -/
def Obligations.ShiftsAreStoredExactly : Prop :=
  ∀ (d rs rt : RegIdx) (s t : State), s.status ≠ .fault → t.status ≠ .fault →
    (exec (.shl d rs rt) s = .next t →
      0 ≤ signed (s.reg rt) ∧ (t.reg d).toNat = (s.reg rs).toNat * 2 ^ (signed (s.reg rt)).toNat) ∧
    (exec (.shr d rs rt) s = .next t →
      0 ≤ signed (s.reg rt) ∧ (t.reg d).toNat = (s.reg rs).toNat / 2 ^ (signed (s.reg rt)).toNat)

/-! ### Memory, the gateway and sequences of instructions -/

/-- R35: the data write. -/
def Obligations.DataWriteStoresAndEmits : Prop :=
  ∀ (s : State) (a : Addr) (v : Word),
    Claims.CellSet a v s (s.memWrite a v) ∧ Claims.RegsKept s (s.memWrite a v) ∧ (s.memWrite a v).pc = s.pc ∧
    Claims.ControlKept s (s.memWrite a v) ∧ (s.memWrite a v).input = s.input ∧
    (a = 0xFF#8 → (s.memWrite a v).output = s.output ++ [v]) ∧ (a ≠ 0xFF#8 → (s.memWrite a v).output = s.output)

/-- A Word stored anywhere but at 0xFF is the Word the next load from there gives (R41). -/
def Obligations.StoredWordIsLoadedBack : Prop :=
  ∀ (d d' : RegIdx) (a : Addr) (s u : State), a ≠ 0xFF#8 → d' ≠ 0#4 → exec (.st d a) s = .next u →
    ∃ t, exec (.ld d' a) u = .next t ∧ t.reg d' = s.reg d

/-- A load from 0xFF after a store to it gives the input Word, and the stored Word went to OUTPUT (R22, R39). -/
def Obligations.IoLoadReturnsInputNotTheStoredWord : Prop :=
  ∀ (d d' : RegIdx) (w : Word) (rest : List Word) (s u : State), d' ≠ 0#4 → s.input = w :: rest →
    exec (.st d 0xFF#8) s = .next u →
    ∃ t, exec (.ld d' 0xFF#8) u = .next t ∧ t.reg d' = w ∧ t.cell 0xFF#8 = w ∧ t.input = rest ∧
      t.output = s.output ++ [s.reg d]

/-- A load that resolves to 0xFF and passes its check waits without input, its state unchanged, and the Word the console
supplies lets it take place as a whole (R134; that a held step answers the unchanged state is log entry 2). -/
def Obligations.HoldIsLiftedByTheInputWord : Prop :=
  ∀ (i : Instr) (d : RegIdx) (s : State), loadAddr i s = some 0xFF#8 → regWritten i = some d → d ≠ 0#4 → s.input = [] →
    exec i s = .next s ∧
    ∀ w, ∃ t, exec i (s.supplyInput w) = .next t ∧ Claims.RegSet d w s t ∧ Claims.CellSet 0xFF#8 w s t ∧
      t.pc = s.pc + 1 ∧ Claims.ControlKept s t ∧ t.input = [] ∧ t.output = s.output

/-- A store into the next instruction's cell is seen by its fetch (R44, which the spec derives). -/
def Obligations.StoreIsSeenByTheNextFetch : Prop :=
  ∀ (d : RegIdx) (a : Addr) (s u : State), s.status = .run → s.pc + 1 = (a.toNat : Int) →
    exec (.st d a) s = .next u → step u = exec (decodeWord (s.reg d)) u

/-- CALL then JR through the same register resumes after the CALL (R121, which the spec derives). -/
def Obligations.JrReturnsAfterTheCall : Prop :=
  ∀ (d : RegIdx) (addr : Addr) (s u v : State), d ≠ 0#4 → 0 ≤ s.pc → s.pc ≤ 255 →
    exec (.call d addr) s = .next u → v.reg d = u.reg d →
    ∃ t, exec (.jr d) v = .next t ∧ t.pc = s.pc + 1

/-- The idioms NOP, JMP, MOV and CLR (R60, which the spec derives), in every state whose register 0 holds 0. -/
def Obligations.IdiomsDoWhatTheyAreNamedFor : Prop :=
  ∀ (d rs : RegIdx) (addr : Addr) (s : State), s.reg 0#4 = 0#16 →
    Claims.SetsPc (.bp 0#4 addr) (s.pc + 1) s ∧ Claims.SetsPc (.bz 0#4 addr) (addr.toNat : Int) s ∧
    (d ≠ 0#4 → Claims.SetsReg (.add d rs 0#4) d (s.reg rs) (s.pc + 1) s ∧
      Claims.SetsReg (.ldi d 0#8) d 0#16 (s.pc + 1) s)

/-- A step at a cell whose first digit is 0, an empty one among them, halts the machine and writes nothing else but what `pc`
holds afterwards (R57, R115). That the other three digits do not matter is the spec's decision 92 D16. -/
def Obligations.StepAtAnEmptyCellHalts : Prop :=
  ∀ (s : State) (a : Addr), s.status = .run → s.pc = (a.toNat : Int) → (s.cell a).toNat < 4096 →
    ∃ t, step s = .next t ∧ t.status = .halt ∧ Claims.RegsKept s t ∧ Claims.MemKept s t ∧ Claims.StreamsKept s t

/-! ### The interfaces -/

/-- The fatal error channel shows the fault record in every FAULT state (R161), after a step that faults with the pc of that
step and its cause, and shows nothing otherwise. -/
def Obligations.FatalErrorChannelReportsTheFault : Prop :=
  (∀ s : State, s.status = .fault → s.fatalError = some s.fault) ∧
  (∀ s t : State, step s = .next t → t.status = .fault →
    t.fatalError = some t.fault ∧ t.fault.fpc = s.pc ∧ t.fault.cause ≠ .none) ∧
  ∀ s : State, s.status ≠ .fault → s.fatalError = none

/-- The trace tap (R78): off, it shows nothing; on, it shows the pc, the Word, its fields and the values the registers to be
read hold before the instruction executes. -/
def Obligations.TraceTapShowsWhatIsAboutToExecute : Prop :=
  (∀ s : State, s.debugTrace = false → s.trace = none) ∧
  ∀ (s : State) (a : Addr), s.debugTrace = true → s.status = .run → s.pc = (a.toNat : Int) →
    ∃ r, s.trace = some r ∧ r.pc = s.pc ∧ r.ir = s.cell a ∧ r.fields = Fields.ofWord (s.cell a) ∧
      r.regs.map Prod.fst = regsRead (decodeWord (s.cell a)) ∧ ∀ p ∈ r.regs, p.2 = s.reg p.1

/-- The two lines the source gives for the Word 0x0041 (R136, 95 E8). -/
def Obligations.ConsoleLinesOfTheSource : Prop :=
  consoleLine false 0x0041 = ['>', ' ', '0', '0', '4', '1', ',', ' ', '6', '5'] ∧
  consoleLine true 0x0041 = ['>', ' ', '0', '0', '4', '1', ',', ' ', 'A']

/-- The decimal text of a Word's signed reading, read back digit by digit, is that reading, with a minus sign exactly when it
is negative and no leading zero (R136). -/
def Obligations.DecimalTextReadsBack : Prop :=
  ∀ w : Word, ∃ ds : List Char,
    decimal (signed w) = (if signed w < 0 then '-' :: ds else ds) ∧
    ds.foldl (fun n c => 10 * n + (c.toNat - 48)) 0 = (signed w).natAbs ∧
    (∀ c ∈ ds, 48 ≤ c.toNat ∧ c.toNat ≤ 57) ∧ ds ≠ [] ∧ (ds.head? = some '0' → ds = ['0'])

/-- In ASCII mode a line's first character is delivered as its code and the rest is discarded (R135). -/
def Obligations.AsciiLineDeliversItsFirstCode : Prop :=
  ∀ (s : State) (c : Char) (rest : List Char), s.asciiIo = true → c.toNat ≤ 0xFFFF →
    (s.typeLine (c :: rest)).input = s.input ++ [BitVec.ofNat 16 c.toNat]
end

