-- ==== Sys2Proof/Laws/Console.lean ====
section
/-! SUPPORT. What the console's text of one Word can be. -/

namespace Sys2Proof.Machine

namespace Laws

/-- The text of a Word is its character, an open glyph, or the decimal of its signed reading (R136). -/
theorem decoded_cases (asciiIo : Bool) (w : Word) :
    (asciiIo = true ∧ isPrintable w = true ∧ decoded asciiIo w = [Char.ofNat w.toNat]) ∨
    (asciiIo = true ∧ isPrintable w = false ∧ decoded asciiIo w = Config.openGlyph w) ∨
    (asciiIo = false ∧ decoded asciiIo w = decimal (signed w)) := by
  unfold decoded
  cases asciiIo
  · exact .inr (.inr ⟨rfl, rfl⟩)
  · cases h : isPrintable w
    · exact .inr (.inl ⟨rfl, rfl, rfl⟩)
    · exact .inl ⟨rfl, rfl, rfl⟩

end Laws

end Sys2Proof.Machine
end

