-- ==== Sys2Proof/Laws/Decode.lean ====
section
/-! SUPPORT. The Word of a five-field form as a number. -/

namespace Sys2Proof.Laws

/-- `ir = {op, d, s, t}` as a number (R51). -/
theorem toNat_toWord (f : Fields) :
    f.toWord.toNat = 4096 * f.op.toNat + 256 * f.d.toNat + 16 * f.s.toNat + f.t.toNat := by
  have e : f.toWord.toNat = ((f.op.toNat <<< 4 ||| f.d.toNat) <<< 4 ||| f.s.toNat) <<< 4 ||| f.t.toNat := by
    have h1 := BitVec.toNat_append (f.op ++ f.d ++ f.s) f.t
    have h2 := BitVec.toNat_append (f.op ++ f.d) f.s
    have h3 := BitVec.toNat_append f.op f.d
    rw [h3] at h2
    rw [h2] at h1
    exact h1
  rw [e, ← Nat.shiftLeft_add_eq_or_of_lt f.t.isLt, ← Nat.shiftLeft_add_eq_or_of_lt f.s.isLt,
    ← Nat.shiftLeft_add_eq_or_of_lt f.d.isLt]
  simp only [Nat.shiftLeft_eq]; omega

end Sys2Proof.Laws
end

