-- ==== Sys2Proof/Laws/Memory.lean ====
section
/-! SUPPORT. The laws of the memory list: what a read gives after a write, and that every write keeps the canonical form. -/

namespace Sys2Proof.Machine

namespace Laws

theorem toNat_wordOfBytes (h l : Byte) : (wordOfBytes h l).toNat = 256 * h.toNat + l.toNat := by
  have e : (wordOfBytes h l).toNat = h.toNat <<< 8 ||| l.toNat := BitVec.toNat_append h l
  rw [e, ← Nat.shiftLeft_add_eq_or_of_lt l.isLt, Nat.shiftLeft_eq]; omega

theorem toNat_hiByte (w : Word) : (hiByte w).toNat = w.toNat / 256 := by
  have := w.isLt
  simp only [hiByte, BitVec.extractLsb'_toNat, Nat.shiftRight_eq_div_pow]; omega

theorem toNat_loByte (w : Word) : (loByte w).toNat = w.toNat % 256 := by
  simp [loByte, BitVec.extractLsb'_toNat]

theorem wordOfBytes_hiByte_loByte (w : Word) : wordOfBytes (hiByte w) (loByte w) = w := by
  apply BitVec.eq_of_toNat_eq
  rw [toNat_wordOfBytes, toNat_hiByte, toNat_loByte]; omega

theorem hiByte_wordOfBytes (h l : Byte) : hiByte (wordOfBytes h l) = h := by
  have := l.isLt
  apply BitVec.eq_of_toNat_eq
  rw [toNat_hiByte, toNat_wordOfBytes]; omega

theorem loByte_wordOfBytes (h l : Byte) : loByte (wordOfBytes h l) = l := by
  have := l.isLt
  apply BitVec.eq_of_toNat_eq
  rw [toNat_loByte, toNat_wordOfBytes]; omega

theorem readByte_insertByte (m : Memory) (a b : Nat) (v : Byte) :
    (m.insertByte a v).readByte b = if b = a then v else m.readByte b := by
  induction m with
  | nil => simp [Memory.insertByte, Memory.readByte, eq_comm]
  | cons c m ih =>
    obtain ⟨k, u⟩ := c
    unfold Memory.insertByte
    split
    · simp only [Memory.readByte, eq_comm]
    · split
      · subst k
        by_cases h : b = a
        · simp [Memory.readByte, h]
        · have h' : a ≠ b := fun e => h e.symm
          simp [Memory.readByte, h, h']
      · simp only [Memory.readByte, ih]
        by_cases hb : k = b
        · have : b ≠ a := fun e => by simp_all
          simp [hb, this]
        · simp [hb]

theorem readByte_eraseByte (m : Memory) (a b : Nat) :
    (m.eraseByte a).readByte b = if b = a then 0 else m.readByte b := by
  unfold Memory.eraseByte
  induction m with
  | nil => simp [Memory.readByte]
  | cons c m ih =>
    obtain ⟨k, u⟩ := c
    by_cases hk : k = a
    · subst hk; by_cases hb : b = k <;> simp_all [Memory.readByte, eq_comm]
    · by_cases hb : b = a
      · subst hb; simp_all [Memory.readByte]
      · by_cases hkb : k = b <;> simp_all [Memory.readByte]

/-- A read after a write gives the byte written, and a write leaves every other byte alone. -/
theorem readByte_writeByte (m : Memory) (a b : Nat) (v : Byte) :
    (m.writeByte a v).readByte b = if b = a then v else m.readByte b := by
  unfold Memory.writeByte
  split
  · next h => subst h; exact readByte_eraseByte m a b
  · exact readByte_insertByte m a b v

theorem loSlot_ne_hiSlot (a b : Addr) : loSlot a ≠ hiSlot b := by
  unfold loSlot hiSlot; omega

theorem hiSlot_inj {a b : Addr} (h : hiSlot a = hiSlot b) : a = b := by
  unfold hiSlot at h; exact BitVec.eq_of_toNat_eq (by omega)

theorem loSlot_inj {a b : Addr} (h : loSlot a = loSlot b) : a = b := by
  unfold loSlot at h; exact BitVec.eq_of_toNat_eq (by omega)

theorem readByte_writeCell (m : Memory) (a : Addr) (w : Word) (b : Nat) :
    (m.writeCell a w).readByte b =
      if b = loSlot a then loByte w else if b = hiSlot a then hiByte w else m.readByte b := by
  simp [Memory.writeCell, readByte_writeByte]

/-- A cell's write leaves every byte but the cell's two alone. -/
theorem readByte_writeCell_of_ne (m : Memory) (a : Addr) (w : Word) {b : Nat}
    (hh : b ≠ hiSlot a) (hl : b ≠ loSlot a) : (m.writeCell a w).readByte b = m.readByte b := by
  simp [readByte_writeCell, hh, hl]

/-- A read of a raw cell after a write of one (R33). -/
theorem readCell_writeCell (m : Memory) (a b : Addr) (w : Word) :
    (m.writeCell a w).readCell b = if b = a then w else m.readCell b := by
  unfold Memory.readCell
  by_cases h : b = a
  · subst h
    simp [readByte_writeCell, (loSlot_ne_hiSlot b b).symm, wordOfBytes_hiByte_loByte]
  · have h1 : hiSlot b ≠ hiSlot a := fun e => h (hiSlot_inj e)
    have h2 : loSlot b ≠ loSlot a := fun e => h (loSlot_inj e)
    simp [readByte_writeCell, h, h1, h2, loSlot_ne_hiSlot, (loSlot_ne_hiSlot a b).symm]

@[simp] theorem readCell_writeCell_self (m : Memory) (a : Addr) (w : Word) : (m.writeCell a w).readCell a = w := by
  simp [readCell_writeCell]

theorem mem_insertByte {m : Memory} {a : Nat} {v : Byte} {c : Host.Cell} (h : c ∈ m.insertByte a v) :
    c = (a, v) ∨ c ∈ m := by
  induction m with
  | nil => simp_all [Memory.insertByte]
  | cons x m ih =>
    obtain ⟨k, u⟩ := x
    unfold Memory.insertByte at h
    split at h
    · simp_all
    · split at h
      · simp only [List.mem_cons] at h ⊢; tauto
      · simp only [List.mem_cons] at h ⊢; tauto

theorem insertByte_wf {m : Memory} (h : m.wf) {a : Nat} {v : Byte} (ha : a < 2 * Config.memWords) (hv : v ≠ 0) :
    (m.insertByte a v).wf := by
  constructor
  · obtain ⟨hp, -⟩ := h
    induction m with
    | nil => simp [Memory.insertByte]
    | cons x m ih =>
      obtain ⟨k, u⟩ := x
      obtain ⟨hx, hm⟩ := List.pairwise_cons.mp hp
      unfold Memory.insertByte
      split
      · next hlt =>
        refine List.pairwise_cons.mpr ⟨fun c hc => ?_, hp⟩
        rcases List.mem_cons.mp hc with rfl | hc
        · exact hlt
        · exact lt_trans hlt (hx c hc)
      · split
        · next _ hk => subst hk; exact List.pairwise_cons.mpr ⟨hx, hm⟩
        · next hlt hk =>
          refine List.pairwise_cons.mpr ⟨fun c hc => ?_, ih hm⟩
          rcases mem_insertByte hc with rfl | hc
          · exact lt_of_le_of_ne (not_lt.mp hlt) hk
          · exact hx c hc
  · intro c hc
    rcases mem_insertByte hc with rfl | hc
    · exact ⟨ha, hv⟩
    · exact h.2 c hc

theorem eraseByte_wf {m : Memory} (h : m.wf) (a : Nat) : (m.eraseByte a).wf :=
  ⟨h.1.filter _, fun c hc => h.2 c (List.mem_filter.mp hc).1⟩

theorem writeByte_wf {m : Memory} (h : m.wf) {a : Nat} (ha : a < 2 * Config.memWords) (v : Byte) :
    (m.writeByte a v).wf := by
  unfold Memory.writeByte
  split
  · exact eraseByte_wf h a
  · next hv => exact insertByte_wf h ha hv

/-- Every write of a cell keeps the canonical form. -/
theorem writeCell_wf {m : Memory} (h : m.wf) (a : Addr) (w : Word) : (m.writeCell a w).wf := by
  have := a.isLt
  refine writeByte_wf (writeByte_wf h ?_ _) ?_ _ <;> simp only [hiSlot, loSlot, Config.memWords] <;> omega

theorem nil_wf : Memory.wf [] := ⟨List.Pairwise.nil, fun _ h => nomatch h⟩

theorem loadCell_wf {m : Memory} (h : m.wf) (image : Addr → Option Word) (n : Nat) : (loadCell image m n).wf := by
  unfold loadCell; split
  · exact writeCell_wf h _ _
  · exact h

/-- The loader leaves memory in its canonical form. -/
theorem loadImage_wf (image : Addr → Option Word) : (loadImage image).wf := by
  unfold loadImage
  generalize List.range Config.memWords = l
  have : ∀ m : Memory, m.wf → (l.foldl (loadCell image) m).wf := by
    induction l with
    | nil => exact fun m h => h
    | cons n l ih => exact fun m h => ih _ (loadCell_wf h image n)
  exact this _ nil_wf

/-- An empty image leaves the cleared memory as it is. -/
theorem loadImage_empty : loadImage (fun _ => none) = [] := by
  unfold loadImage
  generalize List.range Config.memWords = l
  have : ∀ m : Memory, l.foldl (loadCell fun _ => none) m = m := by
    induction l with
    | nil => exact fun m => rfl
    | cons n l ih => exact ih
  exact this _

/-- The model's reset state is the reset with an empty image at the conventional entry (log entry 3). -/
theorem boot_empty_eq_reset : State.reset.boot (fun _ => none) Config.conventionalEntry = State.reset := by
  simp [State.boot, loadImage_empty, State.reset]

/-- The memory of the reset state is in its canonical form. -/
theorem reset_mem_wf : State.reset.mem.wf := nil_wf

end Laws

end Sys2Proof.Machine
end

