-- ==== Sys2Proof/Laws/State.lean ====
section
/-! SUPPORT. One lemma per field of the state per update, and what a register reads after each. -/

namespace Sys2Proof.Machine

variable (s : State)

@[simp] theorem State.setPc_regs (v : Int) : (s.setPc v).regs = s.regs := rfl
@[simp] theorem State.setPc_pc (v : Int) : (s.setPc v).pc = v := rfl
@[simp] theorem State.setPc_mem (v : Int) : (s.setPc v).mem = s.mem := rfl
@[simp] theorem State.setPc_status (v : Int) : (s.setPc v).status = s.status := rfl
@[simp] theorem State.setPc_fault (v : Int) : (s.setPc v).fault = s.fault := rfl
@[simp] theorem State.setPc_input (v : Int) : (s.setPc v).input = s.input := rfl
@[simp] theorem State.setPc_output (v : Int) : (s.setPc v).output = s.output := rfl
@[simp] theorem State.setPc_asciiIo (v : Int) : (s.setPc v).asciiIo = s.asciiIo := rfl
@[simp] theorem State.setPc_debugTrace (v : Int) : (s.setPc v).debugTrace = s.debugTrace := rfl

@[simp] theorem State.advance_regs : s.advance.regs = s.regs := rfl
@[simp] theorem State.advance_pc : s.advance.pc = s.pc + 1 := rfl
@[simp] theorem State.advance_mem : s.advance.mem = s.mem := rfl
@[simp] theorem State.advance_status : s.advance.status = s.status := rfl
@[simp] theorem State.advance_fault : s.advance.fault = s.fault := rfl
@[simp] theorem State.advance_input : s.advance.input = s.input := rfl
@[simp] theorem State.advance_output : s.advance.output = s.output := rfl
@[simp] theorem State.advance_asciiIo : s.advance.asciiIo = s.asciiIo := rfl
@[simp] theorem State.advance_debugTrace : s.advance.debugTrace = s.debugTrace := rfl

@[simp] theorem State.setReg_regs (r : RegIdx) (v : Word) : (s.setReg r v).regs = s.regs.set r.toNat v r.isLt := rfl
@[simp] theorem State.setReg_pc (r : RegIdx) (v : Word) : (s.setReg r v).pc = s.pc := rfl
@[simp] theorem State.setReg_mem (r : RegIdx) (v : Word) : (s.setReg r v).mem = s.mem := rfl
@[simp] theorem State.setReg_status (r : RegIdx) (v : Word) : (s.setReg r v).status = s.status := rfl
@[simp] theorem State.setReg_fault (r : RegIdx) (v : Word) : (s.setReg r v).fault = s.fault := rfl
@[simp] theorem State.setReg_input (r : RegIdx) (v : Word) : (s.setReg r v).input = s.input := rfl
@[simp] theorem State.setReg_output (r : RegIdx) (v : Word) : (s.setReg r v).output = s.output := rfl
@[simp] theorem State.setReg_asciiIo (r : RegIdx) (v : Word) : (s.setReg r v).asciiIo = s.asciiIo := rfl
@[simp] theorem State.setReg_debugTrace (r : RegIdx) (v : Word) : (s.setReg r v).debugTrace = s.debugTrace := rfl

@[simp] theorem State.setCell_regs (a : Addr) (v : Word) : (s.setCell a v).regs = s.regs := rfl
@[simp] theorem State.setCell_pc (a : Addr) (v : Word) : (s.setCell a v).pc = s.pc := rfl
@[simp] theorem State.setCell_mem (a : Addr) (v : Word) : (s.setCell a v).mem = s.mem.writeCell a v := rfl
@[simp] theorem State.setCell_status (a : Addr) (v : Word) : (s.setCell a v).status = s.status := rfl
@[simp] theorem State.setCell_fault (a : Addr) (v : Word) : (s.setCell a v).fault = s.fault := rfl
@[simp] theorem State.setCell_input (a : Addr) (v : Word) : (s.setCell a v).input = s.input := rfl
@[simp] theorem State.setCell_output (a : Addr) (v : Word) : (s.setCell a v).output = s.output := rfl
@[simp] theorem State.setCell_asciiIo (a : Addr) (v : Word) : (s.setCell a v).asciiIo = s.asciiIo := rfl
@[simp] theorem State.setCell_debugTrace (a : Addr) (v : Word) : (s.setCell a v).debugTrace = s.debugTrace := rfl

@[simp] theorem State.raise_regs (c : FaultCause) (v : Int) : (s.raise c v).regs = s.regs := rfl
@[simp] theorem State.raise_pc (c : FaultCause) (v : Int) : (s.raise c v).pc = s.pc := rfl
@[simp] theorem State.raise_mem (c : FaultCause) (v : Int) : (s.raise c v).mem = s.mem := rfl
@[simp] theorem State.raise_status (c : FaultCause) (v : Int) : (s.raise c v).status = .fault := rfl
@[simp] theorem State.raise_fault (c : FaultCause) (v : Int) : (s.raise c v).fault = ⟨c, s.pc, v⟩ := rfl
@[simp] theorem State.raise_input (c : FaultCause) (v : Int) : (s.raise c v).input = s.input := rfl
@[simp] theorem State.raise_output (c : FaultCause) (v : Int) : (s.raise c v).output = s.output := rfl
@[simp] theorem State.raise_asciiIo (c : FaultCause) (v : Int) : (s.raise c v).asciiIo = s.asciiIo := rfl
@[simp] theorem State.raise_debugTrace (c : FaultCause) (v : Int) : (s.raise c v).debugTrace = s.debugTrace := rfl

@[simp] theorem State.ioWrite_regs (v : Word) : (s.ioWrite v).regs = s.regs := rfl
@[simp] theorem State.ioWrite_pc (v : Word) : (s.ioWrite v).pc = s.pc := rfl
@[simp] theorem State.ioWrite_mem (v : Word) : (s.ioWrite v).mem = s.mem := rfl
@[simp] theorem State.ioWrite_status (v : Word) : (s.ioWrite v).status = s.status := rfl
@[simp] theorem State.ioWrite_fault (v : Word) : (s.ioWrite v).fault = s.fault := rfl
@[simp] theorem State.ioWrite_input (v : Word) : (s.ioWrite v).input = s.input := rfl
@[simp] theorem State.ioWrite_output (v : Word) : (s.ioWrite v).output = s.output ++ [v] := rfl
@[simp] theorem State.ioWrite_asciiIo (v : Word) : (s.ioWrite v).asciiIo = s.asciiIo := rfl
@[simp] theorem State.ioWrite_debugTrace (v : Word) : (s.ioWrite v).debugTrace = s.debugTrace := rfl

@[simp] theorem State.supplyInput_regs (v : Word) : (s.supplyInput v).regs = s.regs := rfl
@[simp] theorem State.supplyInput_pc (v : Word) : (s.supplyInput v).pc = s.pc := rfl
@[simp] theorem State.supplyInput_mem (v : Word) : (s.supplyInput v).mem = s.mem := rfl
@[simp] theorem State.supplyInput_status (v : Word) : (s.supplyInput v).status = s.status := rfl
@[simp] theorem State.supplyInput_fault (v : Word) : (s.supplyInput v).fault = s.fault := rfl
@[simp] theorem State.supplyInput_input (v : Word) : (s.supplyInput v).input = s.input ++ [v] := rfl
@[simp] theorem State.supplyInput_output (v : Word) : (s.supplyInput v).output = s.output := rfl
@[simp] theorem State.supplyInput_asciiIo (v : Word) : (s.supplyInput v).asciiIo = s.asciiIo := rfl
@[simp] theorem State.supplyInput_debugTrace (v : Word) : (s.supplyInput v).debugTrace = s.debugTrace := rfl

@[simp] theorem State.configure_regs (a b : Bool) : (s.configure a b).regs = s.regs := rfl
@[simp] theorem State.configure_pc (a b : Bool) : (s.configure a b).pc = s.pc := rfl
@[simp] theorem State.configure_mem (a b : Bool) : (s.configure a b).mem = s.mem := rfl
@[simp] theorem State.configure_status (a b : Bool) : (s.configure a b).status = s.status := rfl
@[simp] theorem State.configure_fault (a b : Bool) : (s.configure a b).fault = s.fault := rfl
@[simp] theorem State.configure_input (a b : Bool) : (s.configure a b).input = s.input := rfl
@[simp] theorem State.configure_output (a b : Bool) : (s.configure a b).output = s.output := rfl
@[simp] theorem State.configure_asciiIo (a b : Bool) : (s.configure a b).asciiIo = a := rfl
@[simp] theorem State.configure_debugTrace (a b : Bool) : (s.configure a b).debugTrace = b := rfl

@[simp] theorem State.boot_regs (image : Addr → Option Word) (entry : Int) : (s.boot image entry).regs = Vector.replicate 16 0 := rfl
@[simp] theorem State.boot_pc (image : Addr → Option Word) (entry : Int) : (s.boot image entry).pc = entry := rfl
@[simp] theorem State.boot_mem (image : Addr → Option Word) (entry : Int) : (s.boot image entry).mem = loadImage image := by simp only [State.boot]
@[simp] theorem State.boot_status (image : Addr → Option Word) (entry : Int) : (s.boot image entry).status = .run := rfl
@[simp] theorem State.boot_fault (image : Addr → Option Word) (entry : Int) : (s.boot image entry).fault = ⟨.none, 0, 0⟩ := rfl
@[simp] theorem State.boot_input (image : Addr → Option Word) (entry : Int) : (s.boot image entry).input = s.input := rfl
@[simp] theorem State.boot_output (image : Addr → Option Word) (entry : Int) : (s.boot image entry).output = [] := rfl
@[simp] theorem State.boot_asciiIo (image : Addr → Option Word) (entry : Int) : (s.boot image entry).asciiIo = s.asciiIo := rfl
@[simp] theorem State.boot_debugTrace (image : Addr → Option Word) (entry : Int) : (s.boot image entry).debugTrace = s.debugTrace := rfl

@[simp] theorem State.setPc_reg (v : Int) (q : RegIdx) : (s.setPc v).reg q = s.reg q := rfl
@[simp] theorem State.advance_reg (q : RegIdx) : s.advance.reg q = s.reg q := rfl
@[simp] theorem State.setCell_reg (a : Addr) (v : Word) (q : RegIdx) : (s.setCell a v).reg q = s.reg q := rfl
@[simp] theorem State.raise_reg (c : FaultCause) (v : Int) (q : RegIdx) : (s.raise c v).reg q = s.reg q := rfl
@[simp] theorem State.ioWrite_reg (v : Word) (q : RegIdx) : (s.ioWrite v).reg q = s.reg q := rfl
@[simp] theorem State.supplyInput_reg (v : Word) (q : RegIdx) : (s.supplyInput v).reg q = s.reg q := rfl
@[simp] theorem State.configure_reg (a b : Bool) (q : RegIdx) : (s.configure a b).reg q = s.reg q := rfl

/-- A register reads what was last written to it, and a write leaves every other register alone (R10). -/
theorem State.setReg_reg (r q : RegIdx) (v : Word) :
    (s.setReg r v).reg q = if q = r then v else s.reg q := by
  unfold State.reg State.setReg
  by_cases h : q = r
  · subst h; simp
  · have hn : r.toNat ≠ q.toNat := fun e => h (BitVec.eq_of_toNat_eq e.symm)
    simp [h, hn]

@[simp] theorem State.setReg_reg_self (r : RegIdx) (v : Word) : (s.setReg r v).reg r = v := by
  simp [State.setReg_reg]

theorem State.setReg_reg_ne {r q : RegIdx} (h : q ≠ r) (v : Word) : (s.setReg r v).reg q = s.reg q := by
  simp [State.setReg_reg, h]

@[simp] theorem State.boot_reg (image : Addr → Option Word) (entry : Int) (q : RegIdx) :
    (s.boot image entry).reg q = 0#16 := by
  simp [State.reg]

@[simp] theorem State.reset_reg (q : RegIdx) : State.reset.reg q = 0#16 := by
  simp [State.reg, State.reset]

/-- Reading registers looks at the register file alone. -/
theorem State.reg_congr {s t : State} (h : s.regs = t.regs) (r : RegIdx) : s.reg r = t.reg r := by
  unfold State.reg; simp [h]

end Sys2Proof.Machine
end

