-- ==== Sys2Proof/Laws/Ops.lean ====
section
/-! SUPPORT. For each shared operation, one lemma that says everything it can do. -/

namespace Sys2Proof.Machine

namespace Laws

theorem addrOfInt_eq_some {v : Int} {a : Addr} : addrOfInt v = some a ↔ v = (a.toNat : Int) := by
  unfold addrOfInt
  have := a.isLt
  constructor
  · intro h
    split at h
    · next hv =>
      injection h with h
      subst h
      simp only [BitVec.toNat_ofNat]
      omega
    · cases h
  · rintro rfl
    rw [if_pos (by omega)]
    congr 1
    apply BitVec.eq_of_toNat_eq
    simp

theorem addrOfInt_eq_none {v : Int} : addrOfInt v = none ↔ ¬ fetchable v := by
  unfold addrOfInt fetchable; split <;> simp_all

/-- An indirect operand resolves exactly when its magnitude is at most 0x00FF (R37). -/
theorem indirect_eq_some {s : State} {t : RegIdx} {a : Addr} :
    s.indirect t = some a ↔ magnitude (s.reg t) = a.toNat := by
  unfold State.indirect addrOfWord; rw [addrOfInt_eq_some]; omega

theorem indirect_eq_none {s : State} {t : RegIdx} : s.indirect t = none ↔ 255 < magnitude (s.reg t) := by
  unfold State.indirect addrOfWord; rw [addrOfInt_eq_none]; unfold fetchable; omega

theorem signed_range (w : Word) : -32768 ≤ signed w ∧ signed w ≤ 32767 := by
  have := w.isLt; unfold signed; split <;> omega

theorem signed_eq_toInt (w : Word) : signed w = w.toInt := by
  have := w.isLt; unfold signed; rw [BitVec.toInt_eq_toNat_cond]; split <;> split <;> omega

theorem ovf_eq_false {r : Int} : ovf r = false ↔ -32768 ≤ r ∧ r ≤ 32767 := by
  unfold ovf; simp

theorem ovf_eq_true {r : Int} : ovf r = true ↔ r < -32768 ∨ 32767 < r := by
  unfold ovf; simp

theorem ovf_signed (w : Word) : ovf (signed w) = false := ovf_eq_false.mpr (signed_range w)

/-- The Word stored for an in-range result reads back as that result (R6). -/
theorem signed_unsigned {v : Int} (h : ovf v = false) : signed (unsigned v) = v := by
  have := ovf_eq_false.mp h
  unfold signed unsigned
  split <;> simp only [BitVec.toNat_ofInt] <;> split <;> omega

theorem unsigned_signed (w : Word) : unsigned (signed w) = w := by
  have := w.isLt
  apply BitVec.eq_of_toNat_eq
  unfold signed unsigned
  split <;> split <;> simp only [BitVec.toNat_ofInt] <;> omega

theorem writeBack_zero (v : Word) (p : Int) (s : State) : writeBack 0#4 v p s = .next s.raiseReserved := rfl

theorem writeBack_of_ne {d : RegIdx} (h : d ≠ 0#4) (v : Word) (p : Int) (s : State) :
    writeBack d v p s = .next ((s.setReg d v).setPc p) := by simp [writeBack, h]

/-- Everything the protected write port can do (R74). -/
theorem writeBack_cases {d : RegIdx} {v : Word} {p : Int} {s t : State} (h : writeBack d v p s = .next t) :
    (d = 0#4 ∧ t = s.raiseReserved) ∨ (d ≠ 0#4 ∧ t = (s.setReg d v).setPc p) := by
  unfold writeBack at h
  split at h <;> injection h with h
  · exact .inl ⟨‹_›, h.symm⟩
  · exact .inr ⟨‹_›, h.symm⟩

/-- Everything the end of an ALU instruction can do (R85). -/
theorem aluFinish_cases {d : RegIdx} {r : Int} {s t : State} (h : aluFinish d r s = .next t) :
    (ovf r = true ∧ t = s.raise .arithmeticRange r) ∨
    (ovf r = false ∧ d = 0#4 ∧ t = s.raiseReserved) ∨
    (ovf r = false ∧ d ≠ 0#4 ∧ t = (s.setReg d (unsigned r)).setPc (s.pc + 1)) := by
  unfold aluFinish at h
  split at h
  · next ho => injection h with h; exact .inl ⟨ho, h.symm⟩
  · next ho =>
    have ho : ovf r = false := by simpa using ho
    rcases writeBack_cases h with ⟨hd, rfl⟩ | ⟨hd, rfl⟩
    · exact .inr (.inl ⟨ho, hd, rfl⟩)
    · exact .inr (.inr ⟨ho, hd, rfl⟩)

/-- Everything a shift can do (R90, R91). -/
theorem shiftFinish_cases {d : RegIdx} {f : Nat → Nat → Nat} {m c : Word} {s t : State}
    (h : shiftFinish d f m c s = .next t) :
    (signed c < 0 ∧ t = s.raise .shiftCount (signed c)) ∨
    (0 ≤ signed c ∧ aluFinish d (f (magnitude m) (signed c).toNat : Int) s = .next t) := by
  unfold shiftFinish at h
  split at h
  · injection h with h; exact .inl ⟨‹_›, h.symm⟩
  · exact .inr ⟨by omega, h⟩

/-- Everything a data read can do (R34). -/
theorem memRead_cases {s s' : State} {a : Addr} {v : Word} (h : s.memRead a = some (v, s')) :
    (a ≠ Config.ioAddr ∧ v = s.cell a ∧ s' = s) ∨
    (a = Config.ioAddr ∧ ∃ rest, s.input = v :: rest ∧
      s' = { s with input := rest, mem := s.mem.writeCell Config.ioAddr v }) := by
  unfold State.memRead State.ioRead at h
  split at h
  · next ha =>
    subst ha
    cases hi : s.input with
    | nil => simp [hi] at h
    | cons w rest =>
      simp [hi, State.cell] at h
      obtain ⟨rfl, rfl⟩ := h
      exact .inr ⟨rfl, rest, rfl, rfl⟩
  · next ha => simp at h; obtain ⟨rfl, rfl⟩ := h; exact .inl ⟨ha, rfl, rfl⟩

/-- A data read holds exactly at the I/O address with no input (R134). -/
theorem memRead_eq_none {s : State} {a : Addr} : s.memRead a = none ↔ a = Config.ioAddr ∧ s.input = [] := by
  unfold State.memRead State.ioRead
  split
  · next ha => cases hi : s.input <;> simp [ha]
  · next ha => simp [ha]

/-- Everything a load can do once its address is known. -/
theorem loadInto_cases {d : RegIdx} {a : Addr} {s t : State} (h : loadInto d a s = .next t) :
    (a = Config.ioAddr ∧ s.input = [] ∧ t = s) ∨
    (a ≠ Config.ioAddr ∧ t = (s.setReg d (s.cell a)).advance) ∨
    (a = Config.ioAddr ∧ ∃ v rest, s.input = v :: rest ∧
      t = (State.setReg { s with input := rest, mem := s.mem.writeCell Config.ioAddr v } d v).advance) := by
  unfold loadInto at h
  cases hm : s.memRead a with
  | none =>
    rw [hm] at h
    injection h with h
    obtain ⟨ha, hi⟩ := memRead_eq_none.mp hm
    exact .inl ⟨ha, hi, h.symm⟩
  | some p =>
    obtain ⟨v, s'⟩ := p
    rw [hm] at h
    injection h with h
    subst h
    rcases memRead_cases hm with ⟨ha, rfl, rfl⟩ | ⟨ha, rest, hi, rfl⟩
    · exact .inr (.inl ⟨ha, rfl⟩)
    · exact .inr (.inr ⟨ha, v, rest, hi, rfl⟩)

/-- A load from an ordinary cell (R34). -/
theorem loadInto_cell {a : Addr} (ha : a ≠ Config.ioAddr) (d : RegIdx) (s : State) :
    loadInto d a s = .next ((s.setReg d (s.cell a)).advance) := by
  simp [loadInto, State.memRead, ha]

/-- A load from the I/O address with an input Word (R34, R132). -/
theorem loadInto_io (d : RegIdx) {s : State} {w : Word} {rest : List Word} (hi : s.input = w :: rest) :
    loadInto d Config.ioAddr s =
      .next ((State.setReg { s with input := rest, mem := s.mem.writeCell Config.ioAddr w } d w).advance) := by
  simp [loadInto, State.memRead, State.ioRead, hi, State.cell, State.setCell]

/-- A load from the I/O address with no input waits (R134). -/
theorem loadInto_hold (d : RegIdx) {s : State} (hi : s.input = []) : loadInto d Config.ioAddr s = .next s := by
  simp [loadInto, State.memRead, State.ioRead, hi]

/-- A data write in full (R35). -/
theorem memWrite_eq (s : State) (a : Addr) (v : Word) :
    s.memWrite a v =
      { s with mem := s.mem.writeCell a v, output := if a = Config.ioAddr then s.output ++ [v] else s.output } := by
  unfold State.memWrite; split <;> rfl

/-- A store in full (R102). -/
theorem storeFrom_eq (v : Word) (a : Addr) (s : State) :
    storeFrom v a s = .next
      { s with
        mem := s.mem.writeCell a v
        output := if a = Config.ioAddr then s.output ++ [v] else s.output
        pc := s.pc + 1 } := by
  unfold storeFrom; rw [memWrite_eq]; rfl

/-- The fetch reads the raw cell at a pc inside memory (R36). -/
theorem fetch_eq_some {s : State} {ir : Word} :
    s.fetch = some ir ↔ ∃ a : Addr, s.pc = (a.toNat : Int) ∧ ir = s.cell a := by
  unfold State.fetch
  cases h : addrOfInt s.pc with
  | none =>
    simp only [reduceCtorEq, false_iff]
    rintro ⟨a, ha, -⟩
    rw [addrOfInt_eq_some.mpr ha] at h
    cases h
  | some a =>
    have hp := addrOfInt_eq_some.mp h
    constructor
    · intro e; injection e with e; exact ⟨a, hp, e.symm⟩
    · rintro ⟨b, hb, rfl⟩
      have : a = b := BitVec.eq_of_toNat_eq (by omega)
      rw [this]

theorem fetch_eq_none {s : State} : s.fetch = none ↔ ¬ fetchable s.pc := by
  unfold State.fetch
  cases h : addrOfInt s.pc with
  | none => simpa using addrOfInt_eq_none.mp h
  | some a =>
    have := a.isLt
    have := addrOfInt_eq_some.mp h
    simp only [reduceCtorEq, fetchable, false_iff, not_not]; omega

/-- A step in status RUN with `pc` at the cell `a` is the instruction of that cell (R70). -/
theorem cycle_run {s : State} {a : Addr} (hs : s.status = .run) (hp : s.pc = (a.toNat : Int)) :
    cycle s = exec (decodeWord (s.cell a)) s := by
  simp [cycle, hs, fetch_eq_some.mpr ⟨a, hp, rfl⟩]

/-- Everything a step can do (R70, R77). -/
theorem cycle_cases {s t : State} (h : cycle s = .next t) :
    s.status = .run ∧
      ((¬ fetchable s.pc ∧ t = s.raiseFetchAddress) ∨
        ∃ ir, s.fetch = some ir ∧ exec (decodeWord ir) s = .next t) := by
  unfold cycle at h
  split at h
  · cases h
  · cases h
  · next hs =>
    refine ⟨hs, ?_⟩
    split at h
    · next hf => injection h with h; exact .inl ⟨fetch_eq_none.mp hf, h.symm⟩
    · next ir hf => exact .inr ⟨ir, hf, h⟩

end Laws

end Sys2Proof.Machine
end

