-- ==== Sys2Proof/Laws/PerInstr.lean ====
section
/-! SUPPORT. What holds of every instruction as syntax, one lemma per constructor: the five-field form it is written with
is well-formed and carries its opcode. -/

namespace Sys2Proof.Laws.FieldForm

/-- The form an instruction is written with has agreeing readings of its low byte and the instruction's opcode (R51, R54). -/
def Statement (i : Instr) : Prop := i.fields.wf = true ∧ i.fields.op = i.opcode

theorem rr_wf (op : BitVec 4) (d s t : RegIdx) : (Fields.rr op d s t).wf = true := by
  have hs := s.isLt
  have ht := t.isLt
  simp only [Fields.wf, Fields.rr, BitVec.toNat_append, beq_iff_eq]
  rw [← Nat.shiftLeft_add_eq_or_of_lt ht, Nat.shiftLeft_eq]; omega

theorem a_wf (op : BitVec 4) (d : RegIdx) (addr : Addr) : (Fields.a op d addr).wf = true := by
  have ha := addr.isLt
  simp only [Fields.wf, Fields.a, BitVec.extractLsb'_toNat, beq_iff_eq, Nat.shiftRight_eq_div_pow]
  omega

theorem hlt : Statement .hlt := ⟨rr_wf .., rfl⟩
theorem add (d s t : RegIdx) : Statement (.add d s t) := ⟨rr_wf .., rfl⟩
theorem sub (d s t : RegIdx) : Statement (.sub d s t) := ⟨rr_wf .., rfl⟩
theorem and (d s t : RegIdx) : Statement (.and d s t) := ⟨rr_wf .., rfl⟩
theorem xor (d s t : RegIdx) : Statement (.xor d s t) := ⟨rr_wf .., rfl⟩
theorem shl (d s t : RegIdx) : Statement (.shl d s t) := ⟨rr_wf .., rfl⟩
theorem shr (d s t : RegIdx) : Statement (.shr d s t) := ⟨rr_wf .., rfl⟩
theorem ldi (d : RegIdx) (addr : Addr) : Statement (.ldi d addr) := ⟨a_wf .., rfl⟩
theorem ld (d : RegIdx) (addr : Addr) : Statement (.ld d addr) := ⟨a_wf .., rfl⟩
theorem st (d : RegIdx) (addr : Addr) : Statement (.st d addr) := ⟨a_wf .., rfl⟩
theorem ldx (d t : RegIdx) : Statement (.ldx d t) := ⟨rr_wf .., rfl⟩
theorem stx (d t : RegIdx) : Statement (.stx d t) := ⟨rr_wf .., rfl⟩
theorem bz (d : RegIdx) (addr : Addr) : Statement (.bz d addr) := ⟨a_wf .., rfl⟩
theorem bp (d : RegIdx) (addr : Addr) : Statement (.bp d addr) := ⟨a_wf .., rfl⟩
theorem jr (d : RegIdx) : Statement (.jr d) := ⟨rr_wf .., rfl⟩
theorem call (d : RegIdx) (addr : Addr) : Statement (.call d addr) := ⟨a_wf .., rfl⟩

end Sys2Proof.Laws.FieldForm
end

