-- ==== Sys2Proof/Tests/Slice0.lean ====
section
/-! SUPPORT. The model's own tests: the well-formedness smoke, words decoded bit by bit, one step per vector of the spec, and a
witness for the hypotheses of every statement that has some. Expected results are those of spec/95_test_vectors.md, whose
vector ids stand in the comments, or of the worked examples of the rules. -/

open Sys2Proof Sys2Proof.Machine

namespace Sys2Proof.Tests

/-- A small state: registers and cells given, `pc` given, the instruction placed there, no input. -/
def start (regs : List (RegIdx × Word)) (cells : List (Addr × Word)) (pc : Int) (ir : Word) : State :=
  placeInstr
    (cells.foldl (fun s c => s.setCell c.1 c.2) (regs.foldl (fun s r => s.setReg r.1 r.2) (State.reset.setPc pc))) ir

/-- The state after one step, if there is one. -/
def after (s : State) : Option State := nextState (step s)

/-- What a fault leaves in the record, and the pc. -/
def faultOf (s : State) : Option (FaultCause × Int × Int × Int) :=
  (after s).map (fun t => (t.fault.cause, t.fault.fpc, t.fault.fvalue, t.pc))

/-- An outcome that goes on in a state of which `p` holds. -/
theorem goesOn {r : Result} {p : State → Bool} (h : (nextState r).any p = true) : ∃ t, r = .next t ∧ p t = true := by
  cases r with
  | next t => exact ⟨t, rfl, h⟩
  | fault _ => cases h
  | refused _ => cases h

/-! ### Well-formedness smoke -/

/-- V-D2: the form of 0x1234 is well-formed. -/
theorem test_wf_accepts : (Fields.mk 1 2 3 4 0x34).wf = true := by decide

/-- The low byte's two readings disagree: refused. -/
theorem test_wf_refuses_disagreeing_addr : (Fields.mk 1 2 3 4 0x43).wf = false := by decide

/-- A memory out of order, and one that lists a zero, and one past the last cell, are not canonical. -/
theorem test_memory_wf_refuses :
    ¬ Memory.wf [(5, 1), (4, 1)] ∧ ¬ Memory.wf [(4, 1), (4, 2)] ∧ ¬ Memory.wf [(4, 0)] ∧ ¬ Memory.wf [(512, 1)] := by
  decide

/-! ### Decoding, each word bit by bit from R51 and R54: op, d, s, t -/

theorem test_decode_hlt : decodeWord 0b0000_1111_1111_1111 = .hlt := by decide
theorem test_decode_add : decodeWord 0b0001_0010_0011_0100 = .add 2 3 4 := by decide
theorem test_decode_sub : decodeWord 0b0010_0010_0001_0011 = .sub 2 1 3 := by decide
theorem test_decode_and : decodeWord 0b0011_0001_0010_0011 = .and 1 2 3 := by decide
theorem test_decode_xor : decodeWord 0b0100_0001_0010_0011 = .xor 1 2 3 := by decide
theorem test_decode_shl : decodeWord 0b0101_0001_0010_0011 = .shl 1 2 3 := by decide
theorem test_decode_shr : decodeWord 0b0110_0001_0010_0011 = .shr 1 2 3 := by decide
theorem test_decode_ldi : decodeWord 0b0111_1010_0010_1010 = .ldi 10 0x2A := by decide
theorem test_decode_ld : decodeWord 0b1000_1011_1100_1101 = .ld 11 0xCD := by decide
theorem test_decode_st : decodeWord 0b1001_0010_0010_0000 = .st 2 0x20 := by decide
theorem test_decode_ldx : decodeWord 0b1010_0101_1110_0110 = .ldx 5 6 := by decide
theorem test_decode_stx : decodeWord 0b1011_0101_0000_0010 = .stx 5 2 := by decide
theorem test_decode_bz : decodeWord 0b1100_0000_1111_1111 = .bz 0 0xFF := by decide
theorem test_decode_bp : decodeWord 0b1101_0011_0001_0100 = .bp 3 0x14 := by decide
theorem test_decode_jr : decodeWord 0b1110_0001_1010_1011 = .jr 1 := by decide
theorem test_decode_call : decodeWord 0b1111_1111_1111_1111 = .call 15 0xFF := by decide

/-- The encoder writes zeros in the fields the instruction does not use (R59). -/
theorem test_encode_words :
    encode (.add 2 3 4) = 0x1234 ∧ encode (.ldi 10 0x2A) = 0x7A2A ∧ encode (.stx 5 2) = 0xB502 ∧ encode (.jr 15) = 0xEF00 := by
  decide

/-- The byte decoder takes one Word, the more significant byte first, and refuses half a Word by name. -/
theorem test_decode_bytes :
    (match decode [0x12, 0x34, 0x56] with | .ok p => decide (p = (.add 2 3 4, [0x56])) | .error _ => false) = true ∧
    (match decode [0x12] with | .ok _ => false | .error e => decide (e = .truncated)) = true := by
  decide

/-- A table row's bits reach the decoder. -/
theorem test_decode_table_word :
    decodeTableWord 16 0xF230 = some (.call 2 0x30) ∧ decodeTableWord 17 0xF230 = none := by decide

/-! ### One step for each vector -/

/-- V-A1. -/
theorem test_add : (after (start [(2, 0x0003), (3, 0xFFFE)] [] 0x10 0x1123)).map (fun t => (t.reg 1, t.pc)) = some (1, 0x11) := by
  decide
/-- V-A4: the value of the fault is the exact sum; nothing is written. -/
theorem test_add_range : faultOf (start [(2, 0x8000), (3, 0x8000)] [] 0x10 0x1123) = some (.arithmeticRange, 0x10, -65536, 0x10) := by
  decide
/-- V-S1: x[s] minus x[t]. -/
theorem test_sub : (after (start [(1, 5), (3, 7)] [] 0x10 0x2213)).map (fun t => (t.reg 2, t.pc)) = some (0xFFFE, 0x11) := by
  decide
/-- V-S2: negating -32768. -/
theorem test_sub_range : faultOf (start [(3, 0x8000)] [] 0x10 0x2123) = some (.arithmeticRange, 0x10, 32768, 0x10) := by decide
/-- V-N1. -/
theorem test_and : (after (start [(2, 0xFF0F), (3, 0x0FF0)] [] 0x10 0x3123)).map (fun t => (t.reg 1, t.pc)) = some (0x0F00, 0x11) := by
  decide
/-- V-F3. -/
theorem test_and_reserved : faultOf (start [(2, 1), (3, 1)] [] 0x10 0x3023) = some (.reservedRegister, 0x10, 0, 0x10) := by
  decide
/-- V-X2: exclusive, not inclusive, or. -/
theorem test_xor : (after (start [(2, 3), (3, 1)] [] 0x10 0x4123)).map (fun t => (t.reg 1, t.pc)) = some (2, 0x11) := by decide
/-- V-F4: the fault is raised though the result equals what register 0 holds. -/
theorem test_xor_reserved : faultOf (start [(2, 1), (3, 1)] [] 0x10 0x4023) = some (.reservedRegister, 0x10, 0, 0x10) := by
  decide
/-- V-L7, second half: the largest doubling in range. -/
theorem test_shl : (after (start [(2, 0x3FFF), (3, 1)] [] 0x10 0x5123)).map (fun t => (t.reg 1, t.pc)) = some (0x7FFE, 0x11) := by
  decide
/-- V-L6: the magnitude is shifted; V-L9: the count's fault comes before the reserved register's. -/
theorem test_shl_faults :
    faultOf (start [(2, 0xFFFF), (3, 1)] [] 0x10 0x5123) = some (.arithmeticRange, 0x10, 131070, 0x10) ∧
    faultOf (start [(2, 1), (3, 0xFFFF)] [] 0x10 0x5023) = some (.shiftCount, 0x10, -1, 0x10) := by
  decide
/-- V-R3: zeros enter from the left. -/
theorem test_shr : (after (start [(2, 0x8000), (3, 1)] [] 0x10 0x6123)).map (fun t => (t.reg 1, t.pc)) = some (0x4000, 0x11) := by
  decide
/-- V-R4, V-R9. -/
theorem test_shr_faults :
    faultOf (start [(2, 0x8000)] [] 0x10 0x6123) = some (.arithmeticRange, 0x10, 32768, 0x10) ∧
    faultOf (start [(2, 4), (3, 0x8000)] [] 0x10 0x6123) = some (.shiftCount, 0x10, -32768, 0x10) := by
  decide
/-- V-M2: zero-extended, no gateway action. -/
theorem test_ldi : (after (start [] [] 0x10 0x71FF)).map (fun t => (t.reg 1, t.pc, t.output)) = some (0x00FF, 0x11, []) := by
  decide
/-- V-F7. -/
theorem test_ldi_reserved : faultOf (start [] [] 0x10 0x702A) = some (.reservedRegister, 0x10, 0, 0x10) := by decide
/-- V-M6. -/
theorem test_ld_io :
    (after ((start [] [(0xFF, 0x1111)] 0x10 0x81FF).supplyInput 0x41 |>.supplyInput 0x42)).map
      (fun t => (t.cell 0xFF, t.reg 1, t.input, t.pc)) = some (0x41, 0x41, [0x42], 0x11) := by
  decide
/-- V-M7: held, unchanged; V-F15: the reserved register comes before the input. -/
theorem test_ld_hold_and_reserved :
    (after (start [] [(0xFF, 0x1111)] 0x10 0x81FF)).map (fun t => (t.cell 0xFF, t.reg 1, t.status, t.pc))
      = some (0x1111, 0, .run, 0x10) ∧
    (after ((start [] [] 0x10 0x80FF).supplyInput 0x41)).map (fun t => (t.fault.cause, t.input, t.cell 0xFF))
      = some (.reservedRegister, [0x41], 0) := by
  decide
/-- V-M10: register 0 as a source. -/
theorem test_st : (after (start [] [(0x20, 0x5555)] 0x10 0x9020)).map (fun t => (t.cell 0x20, t.pc)) = some (0, 0x11) := by
  decide
/-- V-M9. -/
theorem test_st_io :
    (after (start [(1, 0x41)] [] 0x10 0x91FF)).map (fun t => (t.cell 0xFF, t.output, t.pc)) = some (0x41, [0x41], 0x11) := by
  decide
/-- V-I7: the address register is the destination as well. -/
theorem test_ldx : (after (start [(2, 0x20)] [(0x20, 0x77)] 0x10 0xA202)).map (fun t => (t.reg 2, t.pc)) = some (0x77, 0x11) := by
  decide
/-- V-I6: a magnitude, not reduced; V-F14: the reserved register comes first. -/
theorem test_ldx_faults :
    faultOf (start [(2, 0xFFFF)] [] 0x10 0xA102) = some (.dataAddress, 0x10, 65535, 0x10) ∧
    faultOf (start [(2, 0x0100)] [] 0x10 0xA002) = some (.reservedRegister, 0x10, 0, 0x10) := by
  decide
/-- V-I10: through the gateway. -/
theorem test_stx_io :
    (after (start [(1, 0x41), (2, 0xFF)] [] 0x10 0xB102)).map (fun t => (t.cell 0xFF, t.output, t.pc))
      = some (0x41, [0x41], 0x11) := by
  decide
/-- V-I12. -/
theorem test_stx_fault : faultOf (start [(1, 1), (2, 0x0100)] [] 0x10 0xB102) = some (.dataAddress, 0x10, 256, 0x10) := by decide
/-- V-C2. -/
theorem test_hlt : (after (start [(1, 5)] [] 0x10 0x0FFF)).map (fun t => (t.status, t.reg 1)) = some (.halt, 5) := by decide
/-- V-C3, V-C4. -/
theorem test_bz :
    (after (start [] [] 0x13 0xC120)).map State.pc = some 0x20 ∧
    (after (start [(1, 0x8000)] [] 0x13 0xC120)).map State.pc = some 0x14 := by
  decide
/-- V-C10, V-C12: the signed reading. -/
theorem test_bp :
    (after (start [(3, 0xFFFF)] [] 0x19 0xD314)).map State.pc = some 0x1A ∧
    (after (start [(3, 0x7FFF)] [] 0x19 0xD314)).map State.pc = some 0x14 := by
  decide
/-- V-C18, V-C15: the register is read signed. -/
theorem test_jr :
    (after (start [(1, 0x8000)] [] 0x10 0xE100)).map State.pc = some (-32767) ∧
    (after (start [(1, 0xFFFF)] [] 0x10 0xE100)).map State.pc = some 0 := by
  decide
/-- V-C21. -/
theorem test_call : (after (start [] [] 0x10 0xF230)).map (fun t => (t.reg 2, t.pc)) = some (0x10, 0x30) := by decide
/-- V-F10: no jump when the link cannot be written. -/
theorem test_call_reserved : faultOf (start [] [] 0x10 0xF030) = some (.reservedRegister, 0x10, 0, 0x10) := by decide
/-- V-F20, and the pc beyond the first cell. -/
theorem test_fetch_outside :
    faultOf (State.reset.setPc 256) = some (.fetchAddress, 256, 0, 256) ∧
    faultOf (State.reset.setPc (-32767)) = some (.fetchAddress, -32767, 0, -32767) := by
  decide
/-- P7, second step: the cell at 0xFF is fetched raw, no input taken. -/
theorem test_fetch_at_io_address :
    (after ((start [] [] 0xFF 0x7202).supplyInput 0x99)).map (fun t => (t.reg 2, t.pc, t.input, t.cell 0xFF))
      = some (2, 256, [0x99], 0x7202) := by
  decide

/-- R136 with D14: the code point is the magnitude, beyond ASCII as well; R136's example for 0xFFFF with ASCII mode off. -/
theorem test_console_text :
    decoded true 0x00E9 = ['é'] ∧ decoded true 0xAC00 = ['가'] ∧ decoded true 0x7E = ['~'] ∧ decoded false 0xFFFF = ['-', '1'] := by
  decide +kernel
/-- N7: no printable character, a control, a surrogate, a noncharacter. -/
theorem test_unprintable :
    isPrintable 0x1F = false ∧ isPrintable 0x7F = false ∧ isPrintable 0xD800 = false ∧ isPrintable 0xFFFF = false := by
  decide +kernel

/-! ### The hypotheses of the statements are met: each witness a concrete case, at a boundary where a clause has one -/

theorem witness_SignedAndUnsignedReadings : (-32768 : Int) ≤ -32768 ∧ (-32768 : Int) ≤ 65535 ∧ (32767 : Int) ≤ 32767 := by decide
theorem witness_FieldsAreTheDigitsOfTheWord : (Fields.mk 15 15 15 15 0xFF).wf = true := by decide
theorem witness_UnusedFieldsDoNotChangeTheInstruction :
    ((0x0000 : Word).toNat / 4096 = (0x0FFF : Word).toNat / 4096 ∧ (0x0000 : Word).toNat / 4096 = 0) ∧
    ((0xE100 : Word).toNat / 4096 = 14 ∧ (0xE100 : Word).toNat / 256 = (0xE1FF : Word).toNat / 256) ∧
    ((0xB102 : Word).toNat / 4096 = 11 ∧ (0xB102 : Word).toNat / 256 = (0xB1F2 : Word).toNat / 256 ∧
      (0xB102 : Word).toNat % 16 = (0xB1F2 : Word).toNat % 16) ∧
    (0xA102 : Word).toNat / 4096 = 10 := by
  decide
theorem witness_StepRunsTheDecodedInstruction :
    (start [] [] 0xFF 0x7202).status = .run ∧ (start [] [] 0xFF 0x7202).pc = ((0xFF : Addr).toNat : Int) ∧
    (start [] [] 0 0x7202).pc = ((0 : Addr).toNat : Int) := by
  decide
theorem witness_FetchOutsideMemoryFaults :
    (State.reset.setPc 256).status = .run ∧ ¬ (0 ≤ (State.reset.setPc 256).pc ∧ (State.reset.setPc 256).pc ≤ 255) ∧
    ¬ (0 ≤ (State.reset.setPc (-1)).pc ∧ (State.reset.setPc (-1)).pc ≤ 255) := by
  decide
theorem witness_TerminalStatesHaveNoStep :
    ({ State.reset with status := .halt } : State).status ≠ .run ∧ (State.reset.raise .reservedRegister 0).status ≠ .run := by
  decide
theorem witness_StepKeepsTheInvariant :
    (start [(1, 5)] [] 0x10 0x9120).Inv ∧ ∃ t, step (start [(1, 5)] [] 0x10 0x9120) = .next t ∧ decide (t.cell 0x20 = 5) = true :=
  ⟨⟨by decide, by decide, by decide, by decide, nofun, trivial⟩, goesOn (by decide)⟩
theorem witness_BootMeetsTheInvariant : pcInRange (-32767) ∧ pcInRange 0x10 ∧ pcInRange 32768 := by decide
theorem witness_ResetAndLoadingValues : State.reset.boot (fun _ => none) 0x10 = State.reset.boot (fun _ => none) 0x10 := rfl

/-- Two operands for the ALU statements. -/
def two (a b : Word) : State := start [(2, a), (3, b)] [] 0x10 0

theorem witness_AddStoresTheSumOrFaults :
    Claims.OutOfRange (signed ((two 0x7FFF 1).reg 2) + signed ((two 0x7FFF 1).reg 3)) ∧
    ¬ Claims.OutOfRange (signed ((two 0x7FFF 0).reg 2) + signed ((two 0x7FFF 0).reg 3)) ∧ (0 : RegIdx) = 0#4 ∧ (15 : RegIdx) ≠ 0#4 := by
  decide
theorem witness_SubStoresTheDifferenceOrFaults :
    Claims.OutOfRange (signed ((two 0 0x8000).reg 2) - signed ((two 0 0x8000).reg 3)) ∧
    ¬ Claims.OutOfRange (signed ((two 0 0x7FFF).reg 2) - signed ((two 0 0x7FFF).reg 3)) ∧ (0 : RegIdx) = 0#4 ∧ (1 : RegIdx) ≠ 0#4 := by
  decide
/-- For AND, XOR, LDI and CALL: a destination of each kind. -/
theorem witness_protected_destinations : (0 : RegIdx) = 0#4 ∧ (1 : RegIdx) ≠ 0#4 ∧ (15 : RegIdx) ≠ 0#4 := by decide
theorem witness_ShlShiftsTheMagnitudeLeftOrFaults :
    signed ((two 1 0xFFFF).reg 3) < 0 ∧ 0 ≤ signed ((two 1 15).reg 3) ∧
    Claims.OutOfRange (((two 1 15).reg 2).toNat * 2 ^ (signed ((two 1 15).reg 3)).toNat : Nat) ∧
    ¬ Claims.OutOfRange (((two 1 14).reg 2).toNat * 2 ^ (signed ((two 1 14).reg 3)).toNat : Nat) := by
  decide
theorem witness_ShrShiftsTheMagnitudeRightOrFaults :
    signed ((two 1 0x8000).reg 3) < 0 ∧ 0 ≤ signed ((two 0x8000 0).reg 3) ∧
    Claims.OutOfRange (((two 0x8000 0).reg 2).toNat / 2 ^ (signed ((two 0x8000 0).reg 3)).toNat : Nat) ∧
    ¬ Claims.OutOfRange (((two 0xFFFF 1).reg 2).toNat / 2 ^ (signed ((two 0xFFFF 1).reg 3)).toNat : Nat) := by
  decide
theorem witness_LdLoadsTheCellOrTheInputWord :
    (0xFE : Addr) ≠ 0xFF#8 ∧ (0xFF : Addr) = 0xFF#8 ∧ (two 0 0).input = [] ∧ ((two 0 0).supplyInput 7).input = [7] := by decide
theorem witness_LdxLoadsThroughTheAddressRegister :
    255 < ((two 0x100 0).reg 2).toNat ∧ ((two 0xFF 0).reg 2).toNat ≤ 255 ∧ ((two 0xFE 0).reg 2).toNat ≤ 255 ∧ (1 : RegIdx) ≠ 0#4 := by
  decide
theorem witness_StxStoresThroughTheAddressRegister :
    255 < ((two 0x100 0).reg 2).toNat ∧ ((two 0xFF 0).reg 2).toNat ≤ 255 := by decide
theorem witness_BzBranchesOnZero : signed ((two 0 0x8000).reg 2) = 0 ∧ signed ((two 0 0x8000).reg 3) ≠ 0 := by decide
theorem witness_BpBranchesOnPositive :
    0 < signed ((two 1 0x8000).reg 2) ∧ signed ((two 1 0x8000).reg 3) ≤ 0 ∧ signed ((two 0 0).reg 2) ≤ 0 := by decide
theorem witness_CallSavesItsAddressAndJumps : 0 ≤ (two 0 0).pc ∧ (two 0 0).pc ≤ 255 ∧ 0 ≤ ((two 0 0).setPc 255).pc ∧ ((two 0 0).setPc 255).pc ≤ 255 := by
  decide

theorem witness_FaultEntryChangesNothingElse :
    ∃ t, step (start [] [] 0x10 0x702A) = .next t ∧ decide (t.status = .fault) = true := goesOn (by decide)
theorem witness_InstructionTakesItsFirstFault :
    Claims.firstFault (.shl 0 2 3) (two 0xFFFF 0xFFFF) = some (.shiftCount, -1) ∧
    Claims.firstFault (.add 0 2 3) (two 0x7FFF 1) = some (.arithmeticRange, 32768) ∧
    Claims.firstFault (.ldx 0 2) (two 0x100 0) = some (.reservedRegister, 0) ∧
    Claims.firstFault (.stx 0 2) (two 0x100 0) = some (.dataAddress, 256) ∧ Claims.firstFault (.stx 0 2) (two 0xFF 0) = none := by
  decide
theorem witness_WriteToRegisterZeroFaults :
    (regWritten (.ldi 0 0x2A) = some 0#4 ∧ regWritten (.shl 0 2 3) = some 0#4) ∧
    Claims.shiftCount (.shl 0 2 3) (two 1 0xFFFF) < 0 ∧
    (0 ≤ Claims.shiftCount (.shl 0 2 3) (two 1 15) ∧ Claims.OutOfRange (Claims.exactResult (.shl 0 2 3) (two 1 15))) ∧
    (0 ≤ Claims.shiftCount (.shl 0 2 3) (two 1 14) ∧ ¬ Claims.OutOfRange (Claims.exactResult (.shl 0 2 3) (two 1 14))) := by
  decide
theorem witness_OnlyTheDestinationRegisterChanges :
    (∃ t, exec (.add 1 2 3) (two 1 2) = .next t ∧ decide (t.reg 1 = 3) = true) ∧ regWritten (.add 1 2 3) ≠ some 2 :=
  ⟨goesOn (by decide), by decide⟩
theorem witness_OnlyTheAddressedCellChanges :
    (∃ t, exec (.st 2 0x20) (two 0x1234 0) = .next t ∧ decide (t.mem.readByte 0x40 = 0x12) = true) ∧
    Claims.cellChanged (.st 2 0x20) (two 0x1234 0) = some 0x20 ∧ 0x42 ≠ hiSlot 0x20 ∧ 0x42 ≠ loSlot 0x20 :=
  ⟨goesOn (by decide), by decide⟩
theorem witness_StreamsMoveOnlyAtTheIoAddress :
    (∃ t, exec (.st 2 0xFF) (two 7 0) = .next t ∧ decide (t.output = [7]) = true) ∧
    (∃ t, exec (.ld 1 0xFF) ((two 7 0).supplyInput 9) = .next t ∧ decide (t.input = []) = true) :=
  ⟨goesOn (by decide), goesOn (by decide)⟩
theorem witness_ConfigurationBitsHaveNoEffect :
    ∃ t, step (start [(1, 0x41)] [] 0x10 0x91FF) = .next t ∧ decide (t.output = [0x41]) = true := goesOn (by decide)
theorem witness_OutcomeDependsOnlyOnRegistersRead :
    (two 1 2).setReg 5 9 = { two 1 2 with regs := ((two 1 2).setReg 5 9).regs } ∧
    (∀ r ∈ regsRead (.add 1 2 3), ((two 1 2).setReg 5 9).reg r = (two 1 2).reg r) ∧
    (∃ t, exec (.add 1 2 3) (two 1 2) = .next t ∧ decide (t.reg 1 = 3) = true) ∧
    (∃ t, exec (.add 1 2 3) ((two 1 2).setReg 5 9) = .next t ∧ decide (t.reg 1 = 3) = true) :=
  ⟨rfl, by decide, goesOn (by decide), goesOn (by decide)⟩
theorem witness_RegisterZeroIsNeverMutated :
    ∃ t, step (start [] [] 0x10 0x712A) = .next t ∧ decide (t.reg 0 = 0) = true := goesOn (by decide)
theorem witness_OnlyHltHalts :
    (two 0 0).status ≠ .halt ∧ ∃ t, exec .hlt (two 0 0) = .next t ∧ decide (t.status = .halt) = true :=
  ⟨by decide, goesOn (by decide)⟩
theorem witness_OtherInstructionsFallThrough :
    (1 ≤ (Instr.add 1 2 3).opcode.toNat ∧ (Instr.stx 1 2).opcode.toNat ≤ 11 ∧ (two 1 2).status = .run) ∧
    ∃ t, exec (.add 1 2 3) (two 1 2) = .next t ∧ decide (t.pc = 0x11) = true :=
  ⟨by decide, goesOn (by decide)⟩
theorem witness_NextPcStaysInItsRange :
    0 ≤ (start [(1, 0x7FFF)] [] 0xFF 0xE100).pc ∧ (start [(1, 0x7FFF)] [] 0xFF 0xE100).pc ≤ 255 ∧
    ∃ t, step (start [(1, 0x7FFF)] [] 0xFF 0xE100) = .next t ∧ decide (t.status ≠ .halt ∧ t.pc = 32768) = true :=
  ⟨by decide, by decide, goesOn (by decide)⟩

theorem witness_SumAndDifferenceAreStoredExactly :
    (two 1 2).status ≠ .fault ∧
    (∃ t, exec (.add 1 2 3) (two 1 2) = .next t ∧ decide (t.status ≠ .fault) = true) ∧
    (∃ t, exec (.sub 1 2 3) (two 1 2) = .next t ∧ decide (t.status ≠ .fault) = true) :=
  ⟨by decide, goesOn (by decide), goesOn (by decide)⟩
theorem witness_ShiftsAreStoredExactly :
    (two 1 14).status ≠ .fault ∧
    (∃ t, exec (.shl 1 2 3) (two 1 14) = .next t ∧ decide (t.status ≠ .fault) = true) ∧
    (∃ t, exec (.shr 1 2 3) (two 0xFFFF 1) = .next t ∧ decide (t.status ≠ .fault) = true) :=
  ⟨by decide, goesOn (by decide), goesOn (by decide)⟩
theorem witness_DataWriteStoresAndEmits : (0xFF : Addr) = 0xFF#8 ∧ (0xFE : Addr) ≠ 0xFF#8 := by decide
theorem witness_StoredWordIsLoadedBack :
    (0xFE : Addr) ≠ 0xFF#8 ∧ (1 : RegIdx) ≠ 0#4 ∧
    ∃ t, exec (.st 2 0xFE) (two 7 0) = .next t ∧ decide (t.cell 0xFE = 7) = true :=
  ⟨by decide, by decide, goesOn (by decide)⟩
theorem witness_IoLoadReturnsInputNotTheStoredWord :
    (1 : RegIdx) ≠ 0#4 ∧ ((two 7 0).supplyInput 9).input = 9 :: [] ∧
    ∃ t, exec (.st 2 0xFF#8) ((two 7 0).supplyInput 9) = .next t ∧ decide (t.cell 0xFF = 7) = true :=
  ⟨by decide, by decide, goesOn (by decide)⟩
theorem witness_HoldIsLiftedByTheInputWord :
    (loadAddr (.ld 1 0xFF) (two 0 0) = some 0xFF#8 ∧ regWritten (.ld 1 0xFF) = some 1) ∧
    (loadAddr (.ldx 1 2) (two 0xFF 0) = some 0xFF#8 ∧ regWritten (.ldx 1 2) = some 1) ∧ (1 : RegIdx) ≠ 0#4 ∧
    (two 0xFF 0).input = [] ∧ (two 0 0).input = [] := by
  decide
theorem witness_StoreIsSeenByTheNextFetch :
    (two 0x7205 0).status = .run ∧ (two 0x7205 0).pc + 1 = ((0x11 : Addr).toNat : Int) ∧
    ∃ t, exec (.st 2 0x11) (two 0x7205 0) = .next t ∧ decide (t.cell 0x11 = 0x7205) = true :=
  ⟨by decide, by decide, goesOn (by decide)⟩
theorem witness_JrReturnsAfterTheCall :
    (15 : RegIdx) ≠ 0#4 ∧ 0 ≤ ((two 0 0).setPc 255).pc ∧ ((two 0 0).setPc 255).pc ≤ 255 ∧
    ∃ t, exec (.call 15 0x20) ((two 0 0).setPc 255) = .next t ∧ decide (t.reg 15 = 0xFF) = true :=
  ⟨by decide, by decide, by decide, goesOn (by decide)⟩
theorem witness_IdiomsDoWhatTheyAreNamedFor : (two 1 2).reg 0#4 = 0#16 ∧ (1 : RegIdx) ≠ 0#4 := by decide
theorem witness_StepAtAnEmptyCellHalts :
    State.reset.status = .run ∧ State.reset.pc = ((0x10 : Addr).toNat : Int) ∧ (State.reset.cell 0x10).toNat < 4096 ∧
    ((start [] [] 0xFF 0x0FFF).cell 0xFF).toNat < 4096 := by
  decide
theorem witness_FatalErrorChannelReportsTheFault :
    (State.reset.raise .reservedRegister 0).status = .fault ∧ (∃ t, step (start [] [] 0x10 0xF030) = .next t ∧ decide (t.status = .fault) = true) ∧ State.reset.status ≠ .fault :=
  ⟨rfl, goesOn (by decide), by decide⟩
theorem witness_TraceTapShowsWhatIsAboutToExecute :
    State.reset.debugTrace = false ∧ ((two 1 2).configure false true).debugTrace = true ∧
    ((two 1 2).configure false true).status = .run ∧ ((two 1 2).configure false true).pc = ((0x10 : Addr).toNat : Int) := by
  decide
theorem witness_AsciiLineDeliversItsFirstCode : (State.reset.configure true false).asciiIo = true ∧ 'A'.toNat ≤ 0xFFFF := by decide

end Sys2Proof.Tests
end

section
/-! PROOFS. The readings of a Word (spec/00_scope.md R5, R6). -/

open Sys2Proof Sys2Proof.Machine Sys2Proof.Machine.Laws

namespace Sys2Proof.Proofs

/-- R6 on its own domain: a negative integer is stored as its two's complement. -/
theorem unsigned_toNat {v : Int} (hlo : -32768 ≤ v) (hhi : v ≤ 65535) :
    ((unsigned v).toNat : Int) = if 0 ≤ v then v else v + 65536 := by
  unfold unsigned
  split <;> simp only [BitVec.toNat_ofInt] <;> omega

/-- A magnitude is its own Word's (R4, R6). -/
@[simp] theorem unsigned_natCast_toNat (w : Word) : unsigned (w.toNat : Int) = w := by
  have hw := w.isLt
  have h := unsigned_toNat (v := (w.toNat : Int)) (by omega) (by omega)
  rw [if_pos (Int.natCast_nonneg _)] at h
  exact BitVec.eq_of_toNat_eq (Int.ofNat_inj.mp h)

/-- Settles O1: the readings by their definitions, the round trips by the laws of `signed` and `unsigned`. -/
theorem signedAndUnsignedReadings : Obligations.SignedAndUnsignedReadings :=
  ⟨fun _ => rfl, signed_range, fun _ => unsigned_toNat,
    fun _ hlo hhi => signed_unsigned (ovf_eq_false.mpr ⟨hlo, hhi⟩),
    fun w => ⟨unsigned_signed w, congrArg signed (unsigned_natCast_toNat w)⟩⟩

end Sys2Proof.Proofs
end

section
/-! PROOFS. Reset and loading: what memory holds after the loader, and the invariant at reset (spec/10_state.md R24, R25,
spec/70_reset_and_hazards.md R180). -/

open Sys2Proof Sys2Proof.Machine Sys2Proof.Machine.Laws

namespace Sys2Proof.Proofs

/-- Cleared memory reads 0 in every cell (R25). -/
@[simp] theorem readCell_nil (a : Addr) : Memory.readCell [] a = 0 := by
  simp [Memory.readCell, Memory.readByte, wordOfBytes]

theorem readCell_loadCell (image : Addr → Option Word) (m : Memory) (n : Nat) (a : Addr) :
    (loadCell image m n).readCell a =
      if a = BitVec.ofNat 8 n then (image a).getD (m.readCell a) else m.readCell a := by
  unfold loadCell
  split
  · next w hw =>
    rw [readCell_writeCell]
    split
    · next ha => rw [ha, hw, Option.getD_some]
    · rfl
  · next hw =>
    split
    · next ha => rw [ha, hw, Option.getD_none]
    · rfl

/-- Loading a list of addresses: a cell on the list takes the image's Word if the image covers it; nothing else moves. -/
theorem readCell_foldl_loadCell (image : Addr → Option Word) (l : List Nat) (m : Memory) (a : Addr) :
    (l.foldl (loadCell image) m).readCell a =
      if ∃ n ∈ l, a = BitVec.ofNat 8 n then (image a).getD (m.readCell a) else m.readCell a := by
  induction l generalizing m with
  | nil => simp
  | cons n l ih =>
    simp only [List.foldl_cons, ih, readCell_loadCell, List.mem_cons, exists_eq_or_imp]
    by_cases ha : a = BitVec.ofNat 8 n
    · cases image a <;> simp [ha]
    · simp [ha]

/-- The loader visits every one of the 256 cells (R180). -/
theorem readCell_loadImage (image : Addr → Option Word) (a : Addr) :
    (loadImage image).readCell a = (image a).getD 0 := by
  have hvisited : ∃ n ∈ List.range Config.memWords, a = BitVec.ofNat 8 n :=
    ⟨a.toNat, List.mem_range.mpr a.isLt, by simp⟩
  rw [loadImage, readCell_foldl_loadCell, if_pos hvisited, readCell_nil]

/-- Settles O15: the fields by their definitions, the cells by what the loader leaves in memory. -/
theorem resetAndLoadingValues : Obligations.ResetAndLoadingValues := by
  rintro s image entry _ rfl
  have hcell (a : Addr) : (s.boot image entry).cell a = (image a).getD 0 := by
    rw [State.cell, State.boot_mem, readCell_loadImage]
  exact ⟨State.boot_reg s image entry, hcell, rfl, rfl, rfl, rfl, rfl, rfl, rfl⟩

/-- Settles O14: memory by the loader's law, the other clauses by the values reset writes. -/
theorem bootMeetsTheInvariant : Obligations.BootMeetsTheInvariant := fun s image entry hentry =>
  { memWf := by rw [State.boot_mem]; exact loadImage_wf image
    regZero := State.boot_reg s image entry 0#4
    pcRange := fun _ => hentry
    faultIff := by simp
    faultPc := nofun
    faultCoherent := trivial }

/-- Settles O13: the reset state is a reset with an empty image, at an entry in the range of `pc`. -/
theorem resetMeetsTheInvariant : Obligations.ResetMeetsTheInvariant := by
  have h := bootMeetsTheInvariant State.reset (fun _ => none) Config.conventionalEntry (by decide)
  rwa [boot_empty_eq_reset] at h

end Sys2Proof.Proofs
end

section
/-! PROOFS. The invariant of the machine is kept by every step (spec/10_state.md R24): first by the mutations a step is
made of, then by the operations the instructions share, then by the instructions. -/

open Sys2Proof.Machine.Laws

namespace Sys2Proof.Machine

variable {s t : State} {d : RegIdx} {a : Addr} {p v : Int}

/-! ### The mutations -/

theorem State.Inv.cause_of_run (h : s.Inv) (hs : s.status = .run) : s.fault.cause = .none := by
  simpa [hs] using h.faultIff

/-- A fault entry keeps the invariant when its record is what R150 gives the cause (R158). -/
theorem State.Inv.raise {c : FaultCause} (h : s.Inv) (hs : s.status = .run) (hc : c ≠ .none)
    (hrec : FaultRecord.coherent ⟨c, s.pc, v⟩) : (s.raise c v).Inv where
  memWf := h.memWf
  regZero := h.regZero
  pcRange _ := h.pcRange (by simp [hs])
  faultIff := by simpa using hc
  faultPc _ := rfl
  faultCoherent := hrec

theorem State.Inv.setPc (h : s.Inv) (hs : s.status = .run) (hp : pcInRange p) : (s.setPc p).Inv :=
  { h with
    pcRange := fun _ => hp
    faultPc := by simp [hs] }

theorem State.Inv.halt (h : s.Inv) (hs : s.status = .run) : State.Inv { s with status := .halt } :=
  { h with
    pcRange := nofun
    faultIff := by simp [h.cause_of_run hs]
    faultPc := nofun }

/-- The invariant holds, and an instruction can execute: the status is RUN and `pc` names a cell (R70). -/
structure State.Executing (s : State) : Prop where
  inv : s.Inv
  running : s.status = .run
  inMemory : fetchable s.pc

namespace State.Executing

theorem setReg (h : s.Executing) (hd : d ≠ 0#4) (w : Word) : (s.setReg d w).Executing :=
  { h with inv := { h.inv with regZero := by rw [State.setReg_reg_ne s hd.symm, h.inv.regZero] } }

theorem memWrite (h : s.Executing) (a : Addr) (w : Word) : (s.memWrite a w).Executing := by
  rw [memWrite_eq]
  exact { h with inv := { h.inv with memWf := writeCell_wf h.inv.memWf a w } }

/-- What a load from the I/O address does before its register write (R34). -/
theorem depositInput (h : s.Executing) (w : Word) (rest : List Word) :
    State.Executing { s with input := rest, mem := s.mem.writeCell Config.ioAddr w } :=
  { h with inv := { h.inv with memWf := writeCell_wf h.inv.memWf _ w } }

theorem advance_inv (h : s.Executing) : s.advance.Inv := by
  obtain ⟨hlo, hhi⟩ := h.inMemory
  exact h.inv.setPc h.running ⟨by omega, by omega⟩

theorem jump_inv (h : s.Executing) (addr : Addr) : (s.setPc (absTarget addr)).Inv := by
  have := addr.isLt
  exact h.inv.setPc h.running (by unfold absTarget; omega)

theorem raiseReserved_inv (h : s.Executing) : s.raiseReserved.Inv :=
  h.inv.raise h.running nofun ⟨h.inMemory, rfl⟩

theorem raiseDataAddress_inv {r : RegIdx} (h : s.Executing) (hr : s.indirect r = none) :
    (s.raiseDataAddress r).Inv := by
  have hlow := indirect_eq_none.mp hr
  have hhigh : magnitude (s.reg r) < 65536 := (s.reg r).isLt
  have hvalue : 255 < (magnitude (s.reg r) : Int) ∧ (magnitude (s.reg r) : Int) ≤ 65535 := by omega
  exact h.inv.raise h.running nofun ⟨h.inMemory, hvalue⟩

/-! ### The shared operations -/

theorem writeBack_inv {w : Word} (h : s.Executing) (hp : pcInRange p) (he : writeBack d w p s = .next t) : t.Inv := by
  obtain ⟨-, rfl⟩ | ⟨hd, rfl⟩ := writeBack_cases he
  · exact h.raiseReserved_inv
  · exact (h.setReg hd w).inv.setPc h.running hp

theorem aluFinish_inv (h : s.Executing) (he : aluFinish d v s = .next t) : t.Inv := by
  obtain ⟨hovf, rfl⟩ | ⟨-, -, rfl⟩ | ⟨-, hd, rfl⟩ := aluFinish_cases he
  · exact h.inv.raise h.running nofun ⟨h.inMemory, hovf⟩
  · exact h.raiseReserved_inv
  · exact (h.setReg hd _).advance_inv

theorem shiftFinish_inv {f : Nat → Nat → Nat} {m c : Word} (h : s.Executing)
    (he : shiftFinish d f m c s = .next t) : t.Inv := by
  obtain ⟨hneg, rfl⟩ | ⟨-, he⟩ := shiftFinish_cases he
  · exact h.inv.raise h.running nofun ⟨h.inMemory, (signed_range c).1, hneg⟩
  · exact h.aluFinish_inv he

/-- A load keeps the invariant, a held one as well: it changes nothing (R134). -/
theorem loadInto_inv (h : s.Executing) (hd : d ≠ 0#4) (he : loadInto d a s = .next t) : t.Inv := by
  obtain ⟨-, -, rfl⟩ | ⟨-, rfl⟩ | ⟨-, w, rest, -, rfl⟩ := loadInto_cases he
  · exact h.inv
  · exact (h.setReg hd _).advance_inv
  · exact ((h.depositInput w rest).setReg hd w).advance_inv

theorem storeFrom_inv {w : Word} (h : s.Executing) (he : storeFrom w a s = .next t) : t.Inv := by
  cases he
  exact (h.memWrite a w).advance_inv

theorem branchIf_inv {c : Bool} (h : s.Executing) (he : branchIf c a s = .next t) : t.Inv := by
  cases he
  cases c
  · exact h.advance_inv
  · exact h.jump_inv a

/-! ### The instructions -/

theorem execLd_inv (h : s.Executing) (he : execLd d a s = .next t) : t.Inv := by
  unfold execLd at he
  split at he
  · cases he; exact h.raiseReserved_inv
  · next hd => exact h.loadInto_inv hd he

theorem execLdx_inv {r : RegIdx} (h : s.Executing) (he : execLdx d r s = .next t) : t.Inv := by
  unfold execLdx at he
  split at he
  · cases he; exact h.raiseReserved_inv
  · next hd =>
    split at he
    · next hr => cases he; exact h.raiseDataAddress_inv hr
    · exact h.loadInto_inv hd he

theorem execStx_inv {r : RegIdx} (h : s.Executing) (he : execStx d r s = .next t) : t.Inv := by
  unfold execStx at he
  split at he
  · next hr => cases he; exact h.raiseDataAddress_inv hr
  · exact h.storeFrom_inv he

theorem execJr_inv (h : s.Executing) (he : execJr d s = .next t) : t.Inv := by
  cases he
  have hrange := signed_range (s.reg d)
  exact h.inv.setPc h.running ⟨by omega, by omega⟩

theorem exec_inv {i : Instr} (h : s.Executing) (he : exec i s = .next t) : t.Inv := by
  cases i with
  | hlt => cases he; exact h.inv.halt h.running
  | add => exact h.aluFinish_inv he
  | sub => exact h.aluFinish_inv he
  | and => exact h.aluFinish_inv he
  | xor => exact h.aluFinish_inv he
  | shl => exact h.shiftFinish_inv he
  | shr => exact h.shiftFinish_inv he
  | ldi => exact h.writeBack_inv (h.advance_inv.pcRange (by simp [h.running])) he
  | ld => exact h.execLd_inv he
  | st => exact h.storeFrom_inv he
  | ldx => exact h.execLdx_inv he
  | stx => exact h.execStx_inv he
  | bz => exact h.branchIf_inv he
  | bp => exact h.branchIf_inv he
  | jr => exact h.execJr_inv he
  | call _ addr => exact h.writeBack_inv ((h.jump_inv addr).pcRange (by simp [h.running])) he

end State.Executing

/-- A step that goes on keeps the invariant: a fetch fault records the bad `pc`, and else an instruction executes (R70). -/
theorem State.Inv.step (h : s.Inv) (he : step s = .next t) : t.Inv := by
  obtain ⟨hs, ⟨hout, rfl⟩ | ⟨ir, hf, hexec⟩⟩ := cycle_cases he
  · exact h.raise hs nofun ⟨hout, rfl⟩
  · obtain ⟨a, hpc, -⟩ := fetch_eq_some.mp hf
    have ha := a.isLt
    have hexecuting : s.Executing := ⟨h, hs, by omega, by omega⟩
    exact hexecuting.exec_inv hexec

end Sys2Proof.Machine

namespace Sys2Proof.Proofs

/-- Settles O12, from the invariant of one step. -/
theorem stepKeepsTheInvariant : Obligations.StepKeepsTheInvariant := fun _ _ => Machine.State.Inv.step

end Sys2Proof.Proofs
end

section
/-! PROOFS. The memory, the data accesses and the gateway at 0xFF (spec/20_memory.md R33 to R35, R39): what a data write
does, what each shared operation leaves in memory, and then what each instruction leaves there. -/

open Sys2Proof Sys2Proof.Machine Sys2Proof.Machine.Laws

namespace Sys2Proof.Proofs

variable {i : Instr} {s t : State} {d r : RegIdx} {a : Addr} {w : Word} {p : Int}

/-! ### The data write -/

theorem cellSet_of_mem_eq (h : t.mem = s.mem.writeCell a w) : Claims.CellSet a w s t := by
  constructor
  · rw [State.cell, h, readCell_writeCell_self]
  · intro b hhi hlo
    rw [h, readByte_writeCell_of_ne _ _ _ hhi hlo]

/-- Settles O47: only the memory and OUTPUT move, and the memory by one cell. -/
theorem dataWriteStoresAndEmits : Obligations.DataWriteStoresAndEmits := by
  intro s a v
  rw [memWrite_eq]
  exact ⟨cellSet_of_mem_eq rfl, fun _ => rfl, rfl, ⟨rfl, rfl, rfl, rfl⟩, rfl, fun ha => if_pos ha, fun ha => if_neg ha⟩

/-! ### A load from 0xFF after a store to it -/

/-- A store to the I/O address takes no input Word and emits the stored one (R35). -/
theorem storeFrom_io_streams (h : storeFrom w Config.ioAddr s = .next t) :
    t.input = s.input ∧ t.output = s.output ++ [w] := by
  rw [storeFrom_eq, if_pos rfl] at h
  cases h
  exact ⟨rfl, rfl⟩

theorem exec_ld_of_ne (hd : d ≠ 0#4) : exec (.ld d a) s = loadInto d a s := if_neg hd

/-- Settles O49: the store leaves INPUT alone, so the load takes its first Word into the cell and the register. -/
theorem ioLoadReturnsInputNotTheStoredWord : Obligations.IoLoadReturnsInputNotTheStoredWord := by
  intro d d' w rest s u hd' hs hst
  obtain ⟨hinput, houtput⟩ := storeFrom_io_streams hst
  have hload := (exec_ld_of_ne hd').trans (loadInto_io d' (hinput.trans hs))
  exact ⟨_, hload, State.setReg_reg_self _ d' w, readCell_writeCell_self _ _ w, rfl, houtput⟩

/-! ### What the shared operations leave in memory -/

theorem writeBack_mem (h : writeBack d w p s = .next t) : t.mem = s.mem := by
  obtain ⟨-, rfl⟩ | ⟨-, rfl⟩ := writeBack_cases h <;> rfl

theorem aluFinish_mem (h : aluFinish d p s = .next t) : t.mem = s.mem := by
  obtain ⟨-, rfl⟩ | ⟨-, -, rfl⟩ | ⟨-, -, rfl⟩ := aluFinish_cases h <;> rfl

theorem shiftFinish_mem {f : Nat → Nat → Nat} {m c : Word} (h : shiftFinish d f m c s = .next t) : t.mem = s.mem := by
  obtain ⟨-, rfl⟩ | ⟨-, h⟩ := shiftFinish_cases h
  · rfl
  · exact aluFinish_mem h

theorem branchIf_mem {c : Bool} (h : branchIf c a s = .next t) : t.mem = s.mem := by
  cases h; cases c <;> rfl

theorem storeFrom_mem (h : storeFrom w a s = .next t) : t.mem = s.mem.writeCell a w := by
  rw [storeFrom_eq] at h; cases h; rfl

/-- A load leaves memory alone, or deposits an input Word at the I/O address (R34). -/
theorem loadInto_mem (h : loadInto d a s = .next t) :
    t.mem = s.mem ∨ a = Config.ioAddr ∧ ∃ w, t.mem = s.mem.writeCell Config.ioAddr w := by
  obtain ⟨-, -, rfl⟩ | ⟨-, rfl⟩ | ⟨ha, w, -, -, rfl⟩ := loadInto_cases h
  · exact .inl rfl
  · exact .inl rfl
  · exact .inr ⟨ha, w, rfl⟩

/-! ### What the instructions leave in memory -/

theorem cellChanged_of_storeAddr (h : storeAddr i s = some a) : Claims.cellChanged i s = some a := by
  simp [Claims.cellChanged, h]

theorem cellChanged_of_loadAddr_io (hst : storeAddr i s = none) (hld : loadAddr i s = some Config.ioAddr) :
    Claims.cellChanged i s = some Config.ioAddr := by
  simp [Claims.cellChanged, hst, hld, Config.ioAddr]

/-- Memory is as before, or one cell has been replaced: the one `i` may change. -/
def WritesOnlyCellChanged (i : Instr) (s t : State) : Prop :=
  t.mem = s.mem ∨ ∃ a w, Claims.cellChanged i s = some a ∧ t.mem = s.mem.writeCell a w

theorem WritesOnlyCellChanged.of_storeFrom (ha : storeAddr i s = some a) (h : storeFrom w a s = .next t) :
    WritesOnlyCellChanged i s t :=
  .inr ⟨a, w, cellChanged_of_storeAddr ha, storeFrom_mem h⟩

theorem WritesOnlyCellChanged.of_loadInto (hst : storeAddr i s = none) (hld : loadAddr i s = some a)
    (h : loadInto d a s = .next t) : WritesOnlyCellChanged i s t := by
  obtain hmem | ⟨rfl, w, hmem⟩ := loadInto_mem h
  · exact .inl hmem
  · exact .inr ⟨_, w, cellChanged_of_loadAddr_io hst hld, hmem⟩

theorem execLd_writesOnlyCellChanged (h : execLd d a s = .next t) : WritesOnlyCellChanged (.ld d a) s t := by
  unfold execLd at h
  split at h
  · cases h; exact .inl rfl
  · exact .of_loadInto rfl rfl h

theorem execLdx_writesOnlyCellChanged (h : execLdx d r s = .next t) : WritesOnlyCellChanged (.ldx d r) s t := by
  unfold execLdx at h
  split at h
  · cases h; exact .inl rfl
  · split at h
    · cases h; exact .inl rfl
    · next ha => exact .of_loadInto rfl ha h

theorem execStx_writesOnlyCellChanged (h : execStx d r s = .next t) : WritesOnlyCellChanged (.stx d r) s t := by
  unfold execStx at h
  split at h
  · cases h; exact .inl rfl
  · next ha => exact .of_storeFrom ha h

/-- Everything an instruction can do to memory (R33 to R35). -/
theorem exec_writesOnlyCellChanged (h : exec i s = .next t) : WritesOnlyCellChanged i s t := by
  cases i with
  | hlt => cases h; exact .inl rfl
  | add => exact .inl (aluFinish_mem h)
  | sub => exact .inl (aluFinish_mem h)
  | and => exact .inl (aluFinish_mem h)
  | xor => exact .inl (aluFinish_mem h)
  | shl => exact .inl (shiftFinish_mem h)
  | shr => exact .inl (shiftFinish_mem h)
  | ldi => exact .inl (writeBack_mem h)
  | ld => exact execLd_writesOnlyCellChanged h
  | st => exact .of_storeFrom rfl h
  | ldx => exact execLdx_writesOnlyCellChanged h
  | stx => exact execStx_writesOnlyCellChanged h
  | bz => exact .inl (branchIf_mem h)
  | bp => exact .inl (branchIf_mem h)
  | jr => cases h; exact .inl rfl
  | call => exact .inl (writeBack_mem h)

/-- Settles O36: a byte outside the one cell that may have been replaced reads as before. -/
theorem onlyTheAddressedCellChanges : Obligations.OnlyTheAddressedCellChanges := by
  intro i s t b hexec houtside
  obtain hmem | ⟨a, w, ha, hmem⟩ := exec_writesOnlyCellChanged hexec
  · rw [hmem]
  · obtain ⟨hhi, hlo⟩ := houtside a ha
    rw [hmem, readByte_writeCell_of_ne _ _ _ hhi hlo]

end Sys2Proof.Proofs
end

section
/-! PROOFS. The round trip of the encoder and the decoder (spec/30_encoding.md R51 to R54): first between a well-formed
five-field form and its Word, then between an instruction and its form. -/

open Sys2Proof Sys2Proof.Laws

namespace Sys2Proof.Proofs

theorem wf_iff {f : Fields} : f.wf = true ↔ f.addr.toNat = 16 * f.s.toNat + f.t.toNat := beq_iff_eq

/-- The fields read from a Word are its digits, and `addr` is its low byte (R51). -/
theorem ofWord_toNat (w : Word) :
    (Fields.ofWord w).op.toNat = w.toNat / 4096 ∧ (Fields.ofWord w).d.toNat = w.toNat / 256 % 16 ∧
    (Fields.ofWord w).s.toNat = w.toNat / 16 % 16 ∧ (Fields.ofWord w).t.toNat = w.toNat % 16 ∧
    (Fields.ofWord w).addr.toNat = w.toNat % 256 := by
  have hw := w.isLt
  simp only [Fields.ofWord, BitVec.extractLsb'_toNat, Nat.shiftRight_eq_div_pow, pow_zero, Nat.div_one, and_true]
  omega

/-- Two forms with the same numbers in their five fields are the same form. -/
theorem fields_eq_of_toNat_eq {f g : Fields} (hop : f.op.toNat = g.op.toNat) (hd : f.d.toNat = g.d.toNat)
    (hs : f.s.toNat = g.s.toNat) (ht : f.t.toNat = g.t.toNat) (haddr : f.addr.toNat = g.addr.toNat) : f = g := by
  cases f; cases g
  simp only [Fields.mk.injEq]
  exact ⟨BitVec.eq_of_toNat_eq hop, BitVec.eq_of_toNat_eq hd, BitVec.eq_of_toNat_eq hs, BitVec.eq_of_toNat_eq ht,
    BitVec.eq_of_toNat_eq haddr⟩

/-- A form is read back from its Word when its two readings of the low byte agree (R51). -/
theorem ofWord_toWord {f : Fields} (hwf : f.wf = true) : Fields.ofWord f.toWord = f := by
  have haddr := wf_iff.mp hwf
  have hword := toNat_toWord f
  obtain ⟨hop', hd', hs', ht', haddr'⟩ := ofWord_toNat f.toWord
  have hop := f.op.isLt
  have hd := f.d.isLt
  have hs := f.s.isLt
  have ht := f.t.isLt
  apply fields_eq_of_toNat_eq <;> omega

/-- The form an instruction is written with has agreeing readings of its low byte (R52): in the format RR because `addr`
is made of the indices, in the format A because the indices are taken out of `addr`. -/
theorem fields_wf (i : Instr) : i.fields.wf = true := by
  cases i with
  | hlt | add | sub | and | xor | shl | shr | ldx | stx | jr => exact FieldForm.rr_wf ..
  | ldi | ld | st | bz | bp | call => exact FieldForm.a_wf ..

/-- Dispatch on the form an instruction is written with selects that instruction, with its operands (R54, R59). -/
theorem toInstr_fields (i : Instr) : i.fields.toInstr = i := by
  cases i <;> rfl

/-- Settles O3: the Word gives the five fields back, and they select the instruction they were written for. -/
theorem decodeOfEncodeIsTheInstruction : Obligations.DecodeOfEncodeIsTheInstruction := fun i =>
  calc decodeWord (encode i)
    _ = (Fields.ofWord i.fields.toWord).toInstr := rfl
    _ = i.fields.toInstr := by rw [ofWord_toWord (fields_wf i)]
    _ = i := toInstr_fields i

end Sys2Proof.Proofs
end

section
/-! PROOFS. The configuration bits (spec/10_state.md R19): setting them and then taking a step is taking the step and then
setting them. First for the operations the instructions share, then for the instructions, then for the step. -/

open Sys2Proof Sys2Proof.Machine Sys2Proof.Machine.Laws

namespace Sys2Proof.Proofs

variable {s t : State} {x y : Bool}

/-- The configuration bits set in the state that is answered, if one is. -/
def configureNext (x y : Bool) : Result → Result
  | .next t => .next (t.configure x y)
  | .fault r => .fault r
  | .refused r => .refused r

@[simp] theorem configureNext_next : configureNext x y (.next t) = .next (t.configure x y) := rfl

/-- The meaning `f` neither reads nor writes the configuration bits: it commutes with setting them. -/
def IgnoresConfig (f : State → Result) : Prop :=
  ∀ (s : State) (x y : Bool), f (s.configure x y) = configureNext x y (f s)

/-- Setting the bits to the values they have changes nothing. -/
theorem configure_self (s : State) : s.configure s.asciiIo s.debugTrace = s := rfl

theorem IgnoresConfig.next_configure {f : State → Result} (hf : IgnoresConfig f) (h : f s = .next t) (x y : Bool) :
    f (s.configure x y) = .next (t.configure x y) := by
  rw [hf, h, configureNext_next]

/-- A meaning that ignores the bits keeps them: with the bits set to what they are it runs from the same state, and what it
answers then holds those bits. -/
theorem IgnoresConfig.bits_kept {f : State → Result} (hf : IgnoresConfig f) (h : f s = .next t) :
    t.asciiIo = s.asciiIo ∧ t.debugTrace = s.debugTrace := by
  have hself := hf.next_configure h s.asciiIo s.debugTrace
  rw [configure_self, h] at hself
  injection hself with ht
  rw [ht]
  exact ⟨State.configure_asciiIo .., State.configure_debugTrace ..⟩

/-! ### The shared operations -/

theorem writeBack_ignoresConfig (d : RegIdx) (v : Word) (p : Int) : IgnoresConfig (writeBack d v p) := by
  intro s x y
  unfold writeBack
  split <;> rfl

theorem aluFinish_ignoresConfig (d : RegIdx) (r : Int) : IgnoresConfig (aluFinish d r) := by
  intro s x y
  unfold aluFinish
  split
  · rfl
  · exact writeBack_ignoresConfig d (unsigned r) (s.pc + 1) s x y

theorem shiftFinish_ignoresConfig (d : RegIdx) (f : Nat → Nat → Nat) (m c : Word) :
    IgnoresConfig (shiftFinish d f m c) := by
  intro s x y
  unfold shiftFinish
  split
  · rfl
  · exact aluFinish_ignoresConfig d _ s x y

/-- A load ignores the bits at a cell, at the I/O address with an input Word, and where it waits (R34, R134). -/
theorem loadInto_ignoresConfig (d : RegIdx) (a : Addr) : IgnoresConfig (loadInto d a) := by
  intro s x y
  by_cases ha : a = Config.ioAddr
  · subst ha
    cases hi : s.input with
    | nil => rw [loadInto_hold d hi, loadInto_hold d (s := s.configure x y) hi, configureNext_next]
    | cons w rest =>
      rw [loadInto_io d hi, loadInto_io d (s := s.configure x y) hi]
      rfl
  · rw [loadInto_cell ha, loadInto_cell ha]
    rfl

theorem storeFrom_ignoresConfig (v : Word) (a : Addr) : IgnoresConfig (storeFrom v a) := by
  intro s x y
  rw [storeFrom_eq, storeFrom_eq]
  rfl

theorem branchIf_ignoresConfig (c : Bool) (a : Addr) : IgnoresConfig (branchIf c a) := by
  intro s x y
  cases c <;> rfl

/-! ### The instructions and the step -/

theorem indirect_configure (r : RegIdx) : (s.configure x y).indirect r = s.indirect r := rfl

theorem execLd_ignoresConfig (d : RegIdx) (a : Addr) : IgnoresConfig (execLd d a) := by
  intro s x y
  unfold execLd
  split
  · rfl
  · exact loadInto_ignoresConfig d a s x y

theorem execLdx_ignoresConfig (d r : RegIdx) : IgnoresConfig (execLdx d r) := by
  intro s x y
  unfold execLdx
  rw [indirect_configure]
  split
  · rfl
  · cases s.indirect r with
    | none => rfl
    | some a => exact loadInto_ignoresConfig d a s x y

theorem execStx_ignoresConfig (d r : RegIdx) : IgnoresConfig (execStx d r) := by
  intro s x y
  unfold execStx
  rw [indirect_configure]
  cases s.indirect r with
  | none => rfl
  | some a => exact storeFrom_ignoresConfig (s.reg d) a s x y

/-- No instruction reads or writes the configuration bits (R19). -/
theorem exec_ignoresConfig (i : Instr) : IgnoresConfig (exec i) := by
  intro s x y
  cases i with
  | hlt => rfl
  | add d => exact aluFinish_ignoresConfig d _ s x y
  | sub d => exact aluFinish_ignoresConfig d _ s x y
  | and d => exact aluFinish_ignoresConfig d _ s x y
  | xor d => exact aluFinish_ignoresConfig d _ s x y
  | shl d => exact shiftFinish_ignoresConfig d _ _ _ s x y
  | shr d => exact shiftFinish_ignoresConfig d _ _ _ s x y
  | ldi d => exact writeBack_ignoresConfig d _ _ s x y
  | ld d a => exact execLd_ignoresConfig d a s x y
  | st d a => exact storeFrom_ignoresConfig _ a s x y
  | ldx d r => exact execLdx_ignoresConfig d r s x y
  | stx d r => exact execStx_ignoresConfig d r s x y
  | bz d a => exact branchIf_ignoresConfig _ a s x y
  | bp d a => exact branchIf_ignoresConfig _ a s x y
  | jr => rfl
  | call d => exact writeBack_ignoresConfig d _ _ s x y

theorem fetch_configure : (s.configure x y).fetch = s.fetch := rfl

theorem step_ignoresConfig : IgnoresConfig step := by
  intro s x y
  unfold step cycle
  rw [fetch_configure, State.configure_status]
  cases s.status with
  | halt => rfl
  | fault => rfl
  | run =>
    cases s.fetch with
    | none => rfl
    | some ir => exact exec_ignoresConfig (decodeWord ir) s x y

/-- Settles O38: a step commutes with setting the bits, and so keeps them. -/
theorem configurationBitsHaveNoEffect : Obligations.ConfigurationBitsHaveNoEffect := by
  intro s t x y h
  obtain ⟨hascii, htrace⟩ := step_ignoresConfig.bits_kept h
  exact ⟨hascii, htrace, step_ignoresConfig.next_configure h x y⟩

end Sys2Proof.Proofs
end

section
/-! PROOFS. The fields of a Word and the instruction they select (spec/30_encoding.md R51, R54,
spec/40_step_and_decode.md R72, R73). -/

open Sys2Proof Sys2Proof.Laws

namespace Sys2Proof.Proofs

/-- The two readings of the low byte agree in the form of any Word (R51). -/
theorem ofWord_wf (w : Word) : (Fields.ofWord w).wf = true := by
  obtain ⟨-, -, hs, ht, haddr⟩ := ofWord_toNat w
  exact wf_iff.mpr (by omega)

/-- A Word is put together again from its own digits (R51). -/
theorem toWord_ofWord (w : Word) : (Fields.ofWord w).toWord = w := by
  obtain ⟨hop, hd, hs, ht, -⟩ := ofWord_toNat w
  have hword := toNat_toWord (Fields.ofWord w)
  exact BitVec.eq_of_toNat_eq (by omega)

/-- Settles O2: the digits by the numbers of the fields, the two round trips by the laws of `ofWord` and `toWord`. -/
theorem fieldsAreTheDigitsOfTheWord : Obligations.FieldsAreTheDigitsOfTheWord := by
  refine ⟨fun w => ?_, fun _ => ofWord_toWord⟩
  obtain ⟨hop, hd, hs, ht, haddr⟩ := ofWord_toNat w
  exact ⟨hop, hd, hs, ht, haddr, ofWord_wf w, toWord_ofWord w⟩

/-- Dispatch selects the instruction whose opcode is the field `op`, digit by digit (R54, R73). -/
theorem opcode_toInstr (f : Fields) : f.toInstr.opcode.toNat = f.op.toNat := by
  have hop : f.op.toNat < 16 := f.op.isLt
  unfold Fields.toInstr
  interval_cases f.op.toNat <;> rfl

/-- Settles O5: the opcode is the field `op`, and that field is the top digit. -/
theorem opcodeDigitSelectsTheInstruction : Obligations.OpcodeDigitSelectsTheInstruction := by
  intro w
  obtain ⟨hop, -⟩ := ofWord_toNat w
  exact (opcode_toInstr (Fields.ofWord w)).trans hop

end Sys2Proof.Proofs
end

section
/-! PROOFS. The instruction a step runs (spec/40_step_and_decode.md R70): the one of the raw cell at `pc`, and so the one
placed there. -/

open Sys2Proof Sys2Proof.Machine Sys2Proof.Machine.Laws

namespace Sys2Proof.Proofs

/-- Settles O8, by the law of a step in status RUN. -/
theorem stepRunsTheDecodedInstruction : Obligations.StepRunsTheDecodedInstruction := fun _ _ => cycle_run

/-- An instruction is placed where a fetch can reach it: at the address of a cell. -/
theorem placePc_eq_toNat (s : State) : ∃ a : Addr, placePc s = (a.toNat : Int) := by
  unfold placePc
  split
  · next a ha => exact ⟨a, addrOfInt_eq_some.mp ha⟩
  · exact ⟨0x10, rfl⟩

theorem placeInstr_cell {s : State} {a : Addr} (ha : placePc s = (a.toNat : Int)) (ir : Word) :
    (placeInstr s ir).cell a = ir := by
  simp [State.cell, placeInstr, ha]

/-- The step after placing a Word is that Word's instruction. -/
theorem step_placeInstr (s : State) (ir : Word) :
    step (placeInstr s ir) = exec (decodeWord ir) (placeInstr s ir) := by
  obtain ⟨a, ha⟩ := placePc_eq_toNat s
  have hstep : step (placeInstr s ir) = exec (decodeWord ((placeInstr s ir).cell a)) (placeInstr s ir) :=
    cycle_run rfl ha
  rwa [placeInstr_cell ha] at hstep

/-- A whole Word is placed as it is. -/
theorem withFetchWord_toNat (s : State) (ir : Word) : s.withFetchWord 16 ir.toNat = placeInstr s ir := by
  rw [State.withFetchWord, Nat.mod_eq_of_lt ir.isLt, BitVec.ofNat_toNat, BitVec.setWidth_eq]

/-- Settles O11: the step reads back the Word that was placed. -/
theorem placedInstructionIsTheOneStepped : Obligations.PlacedInstructionIsTheOneStepped := by
  intro s ir
  rw [withFetchWord_toNat, step_placeInstr]

end Sys2Proof.Proofs
end

section
/-! PROOFS. The faults of an instruction in the order they are checked (spec/40_step_and_decode.md R74, R75,
spec/60_exceptions.md R157, 92 D8): a negative count, a result out of range, the reserved register. -/

open Sys2Proof Sys2Proof.Machine Sys2Proof.Machine.Laws

namespace Sys2Proof.Proofs

variable {i : Instr} {s : State} {d : RegIdx} {r v : Int} {c : FaultCause}

/-! ### The shared operations -/

theorem aluFinish_of_outOfRange (hr : Claims.OutOfRange r) : aluFinish d r s = .next (s.raise .arithmeticRange r) :=
  if_pos (ovf_eq_true.mpr hr)

theorem aluFinish_of_inRange (hr : ¬ Claims.OutOfRange r) :
    aluFinish d r s = writeBack d (unsigned r) (s.pc + 1) s :=
  if_neg fun hovf => hr (ovf_eq_true.mp hovf)

theorem aluFinish_zero_of_inRange (hr : ¬ Claims.OutOfRange r) : aluFinish 0#4 r s = .next s.raiseReserved :=
  (aluFinish_of_inRange hr).trans (writeBack_zero ..)

theorem shiftFinish_of_neg {f : Nat → Nat → Nat} {m w : Word} (hw : signed w < 0) :
    shiftFinish d f m w s = .next (s.raise .shiftCount (signed w)) :=
  if_pos hw

theorem shiftFinish_of_nonneg {f : Nat → Nat → Nat} {m w : Word} (hw : 0 ≤ signed w) :
    shiftFinish d f m w s = aluFinish d (f (magnitude m) (signed w).toNat : Int) s :=
  if_neg hw.not_gt

/-! ### The instructions, one lemma per cause -/

/-- Only a shift has a count, and a negative one is the first thing it reports (R90, R91). -/
theorem exec_of_negative_count (hcount : Claims.shiftCount i s < 0) :
    exec i s = .next (s.raise .shiftCount (Claims.shiftCount i s)) := by
  cases i with
  | shl | shr => exact shiftFinish_of_neg hcount
  | _ => exact absurd hcount (lt_irrefl 0)

/-- A result out of range is reported before the write port is tried (R85, R75). -/
theorem exec_of_outOfRange (hcount : 0 ≤ Claims.shiftCount i s) (hr : Claims.OutOfRange (Claims.exactResult i s)) :
    exec i s = .next (s.raise .arithmeticRange (Claims.exactResult i s)) := by
  cases i with
  | add | sub | and | xor => exact aluFinish_of_outOfRange hr
  | shl | shr => exact (shiftFinish_of_nonneg hcount).trans (aluFinish_of_outOfRange hr)
  | _ => exact absurd hr (by decide : ¬ Claims.OutOfRange 0)

/-- With no earlier fault to report, the write to register 0 is refused, before any data read or jump (R74, R75). -/
theorem exec_of_register_zero (hcount : 0 ≤ Claims.shiftCount i s)
    (hr : ¬ Claims.OutOfRange (Claims.exactResult i s)) (hd : regWritten i = some 0#4) :
    exec i s = .next s.raiseReserved := by
  cases i with
  | add | sub | and | xor => cases hd; exact aluFinish_zero_of_inRange hr
  | shl | shr => cases hd; exact (shiftFinish_of_nonneg hcount).trans (aluFinish_zero_of_inRange hr)
  | ldi | ld | ldx | call => cases hd; rfl
  | hlt | st | stx | bz | bp | jr => cases hd

/-- A fault entry writes the record and the status alone (R158). -/
theorem raise_faultTaken (c : FaultCause) (v : Int) (s : State) : Claims.FaultTaken c v s (s.raise c v) :=
  ⟨rfl, rfl, rfl, fun _ => rfl, fun _ => rfl, ⟨rfl, rfl⟩, rfl, rfl⟩

theorem faults_of_exec (h : exec i s = .next (s.raise c v)) : Claims.Faults i c v s :=
  ⟨_, h, raise_faultTaken c v s⟩

/-- Settles O34: each clause is the fault of one cause. -/
theorem writeToRegisterZeroFaults : Obligations.WriteToRegisterZeroFaults := fun _ _ hd =>
  ⟨fun hcount => faults_of_exec (exec_of_negative_count hcount),
    fun hcount hr => faults_of_exec (exec_of_outOfRange hcount hr),
    fun hcount hr => faults_of_exec (exec_of_register_zero hcount hr hd)⟩

end Sys2Proof.Proofs
end

section
/-! PROOFS. The default next pc (spec/40_step_and_decode.md R76): where an instruction that is no control instruction
ends. -/

open Sys2Proof Sys2Proof.Machine Sys2Proof.Machine.Laws

namespace Sys2Proof.Proofs

variable {i : Instr} {s t : State} {d r : RegIdx} {a : Addr} {w : Word} {v : Int}

/-! ### The accesses that check before they read or write -/

/-- Everything LD can do (R101). -/
theorem execLd_cases (h : execLd d a s = .next t) : t = s.raiseReserved ∨ loadInto d a s = .next t := by
  unfold execLd at h
  split at h
  · cases h; exact .inl rfl
  · exact .inr h

/-- Everything LDX can do (R103). -/
theorem execLdx_cases (h : execLdx d r s = .next t) :
    t = s.raiseReserved ∨ t = s.raiseDataAddress r ∨ ∃ a, s.indirect r = some a ∧ loadInto d a s = .next t := by
  unfold execLdx at h
  split at h
  · cases h; exact .inl rfl
  · split at h
    · cases h; exact .inr (.inl rfl)
    · next a ha => exact .inr (.inr ⟨a, ha, h⟩)

/-- Everything STX can do (R104). -/
theorem execStx_cases (h : execStx d r s = .next t) :
    t = s.raiseDataAddress r ∨ ∃ a, s.indirect r = some a ∧ storeFrom (s.reg d) a s = .next t := by
  unfold execStx at h
  split at h
  · cases h; exact .inl rfl
  · next a ha => exact .inr ⟨a, ha, h⟩

/-! ### Falling through -/

/-- `i` went on to `pc + 1`, or faulted, or is a load from the I/O address that waits for input (R76, R134). -/
def FallsThrough (i : Instr) (s t : State) : Prop :=
  t.pc = s.pc + 1 ∨ t.status = .fault ∨ (loadAddr i s = some Config.ioAddr ∧ s.input = [] ∧ t = s)

theorem FallsThrough.of_pc (h : t.pc = s.pc + 1) : FallsThrough i s t := .inl h

theorem FallsThrough.of_fault (h : t.status = .fault) : FallsThrough i s t := .inr (.inl h)

theorem writeBack_fallsThrough (h : writeBack d w (s.pc + 1) s = .next t) : FallsThrough i s t := by
  obtain ⟨-, rfl⟩ | ⟨-, rfl⟩ := writeBack_cases h
  · exact .of_fault rfl
  · exact .of_pc rfl

theorem aluFinish_fallsThrough (h : aluFinish d v s = .next t) : FallsThrough i s t := by
  obtain ⟨-, rfl⟩ | ⟨-, -, rfl⟩ | ⟨-, -, rfl⟩ := aluFinish_cases h
  · exact .of_fault rfl
  · exact .of_fault rfl
  · exact .of_pc rfl

theorem shiftFinish_fallsThrough {f : Nat → Nat → Nat} {m c : Word} (h : shiftFinish d f m c s = .next t) :
    FallsThrough i s t := by
  obtain ⟨-, rfl⟩ | ⟨-, h⟩ := shiftFinish_cases h
  · exact .of_fault rfl
  · exact aluFinish_fallsThrough h

theorem storeFrom_fallsThrough (h : storeFrom w a s = .next t) : FallsThrough i s t := by
  rw [storeFrom_eq] at h
  cases h
  exact .of_pc rfl

/-- Only a load can wait, and only at the I/O address (R134). -/
theorem loadInto_fallsThrough (ha : loadAddr i s = some a) (h : loadInto d a s = .next t) : FallsThrough i s t := by
  obtain ⟨rfl, hinput, rfl⟩ | ⟨-, rfl⟩ | ⟨-, -, -, -, rfl⟩ := loadInto_cases h
  · exact .inr (.inr ⟨ha, hinput, rfl⟩)
  · exact .of_pc rfl
  · exact .of_pc rfl

theorem execLd_fallsThrough (h : execLd d a s = .next t) : FallsThrough (.ld d a) s t := by
  obtain rfl | h := execLd_cases h
  · exact .of_fault rfl
  · exact loadInto_fallsThrough rfl h

theorem execLdx_fallsThrough (h : execLdx d r s = .next t) : FallsThrough (.ldx d r) s t := by
  obtain rfl | rfl | ⟨a, ha, h⟩ := execLdx_cases h
  · exact .of_fault rfl
  · exact .of_fault rfl
  · exact loadInto_fallsThrough ha h

theorem execStx_fallsThrough (h : execStx d r s = .next t) : FallsThrough i s t := by
  obtain rfl | ⟨a, -, h⟩ := execStx_cases h
  · exact .of_fault rfl
  · exact storeFrom_fallsThrough h

/-- Every instruction but the control instructions, opcodes 0 and C to F, falls through (R76). -/
theorem exec_fallsThrough (hlo : 1 ≤ i.opcode.toNat) (hhi : i.opcode.toNat ≤ 11) (h : exec i s = .next t) :
    FallsThrough i s t := by
  cases i with
  | add | sub | and | xor => exact aluFinish_fallsThrough h
  | shl | shr => exact shiftFinish_fallsThrough h
  | ldi => exact writeBack_fallsThrough h
  | ld => exact execLd_fallsThrough h
  | st => exact storeFrom_fallsThrough h
  | ldx => exact execLdx_fallsThrough h
  | stx => exact execStx_fallsThrough h
  | hlt => simp [Instr.opcode] at hlo
  | bz | bp | jr | call => simp [Instr.opcode] at hhi

/-- Settles O42. The status before plays no part. -/
theorem otherInstructionsFallThrough : Obligations.OtherInstructionsFallThrough :=
  fun _ _ _ hlo hhi _ => exec_fallsThrough hlo hhi

end Sys2Proof.Proofs
end

section
/-! PROOFS. The ALU instructions whole (spec/41_alu.md R85): the protected write and the skeleton around it, for every
instruction that ends in them, then ADD, AND and XOR (R86, R88, R89). -/

open Sys2Proof Sys2Proof.Machine Sys2Proof.Machine.Laws

namespace Sys2Proof.Proofs

variable {i : Instr} {s : State} {d : RegIdx} {w : Word} {p r : Int}

/-! ### The shared operations -/

/-- A register write that ends on `p` moves that register and the `pc` alone (R10). -/
theorem setsReg_of_exec (h : exec i s = .next ((s.setReg d w).setPc p)) : Claims.SetsReg i d w p s :=
  have hreg : Claims.RegSet d w s ((s.setReg d w).setPc p) :=
    ⟨State.setReg_reg_self s d w, fun _ hq => State.setReg_reg_ne s hq w⟩
  ⟨_, h, hreg, rfl, fun _ => rfl, ⟨rfl, rfl, rfl, rfl⟩, rfl, rfl⟩

/-- An instruction that ends in the write port is protected by it (R74). -/
theorem writesProtected_of_exec (h : exec i s = writeBack d w p s) : Claims.WritesProtected i d w p s := by
  constructor
  · rintro rfl
    exact faults_of_exec (h.trans (writeBack_zero w p s))
  · intro hd
    exact setsReg_of_exec (h.trans (writeBack_of_ne hd w p s))

/-- An instruction that ends as the ALU does has the skeleton of R85. -/
theorem aluSkeleton_of_exec (h : exec i s = aluFinish d r s) : Claims.AluSkeleton i d r (unsigned r) s :=
  ⟨fun hr => faults_of_exec (h.trans (aluFinish_of_outOfRange hr)),
    fun hr => writesProtected_of_exec (h.trans (aluFinish_of_inRange hr))⟩

/-- The signed reading of a Word is in range, so only the protected write is left of the skeleton (R88, R89). -/
theorem aluFinish_signed (d : RegIdx) (w : Word) (s : State) :
    aluFinish d (signed w) s = writeBack d w (s.pc + 1) s := by
  have hr : ¬ Claims.OutOfRange (signed w) := by
    have hrange := signed_range w
    omega
  rw [aluFinish_of_inRange hr, unsigned_signed]

/-! ### The instructions -/

/-- Settles O16, by the skeleton of R85 for the sum. -/
theorem addStoresTheSumOrFaults : Obligations.AddStoresTheSumOrFaults :=
  fun _ _ _ _ => aluSkeleton_of_exec rfl

/-- Settles O18: the result is a Word's reading, so the range check passes. -/
theorem andStoresTheBitwiseAnd : Obligations.AndStoresTheBitwiseAnd :=
  fun d rs rt s => writesProtected_of_exec (aluFinish_signed d (s.reg rs &&& s.reg rt) s)

/-- Settles O19: the result is a Word's reading, so the range check passes. -/
theorem xorStoresTheBitwiseXor : Obligations.XorStoresTheBitwiseXor :=
  fun d rs rt s => writesProtected_of_exec (aluFinish_signed d (s.reg rs ^^^ s.reg rt) s)

end Sys2Proof.Proofs
end

section
/-! PROOFS. LDI and the stores (spec/42_memory_access.md R100, R102): the immediate's two spellings, and what an instruction
that ends in the shared store leaves behind. -/

open Sys2Proof Sys2Proof.Machine Sys2Proof.Machine.Laws

namespace Sys2Proof.Proofs

variable {i : Instr} {s : State} {a : Addr} {w : Word}

/-- Extension with zeros keeps the magnitude (R53). -/
theorem immediate_eq_ofNat (a : Addr) : immediate a = BitVec.ofNat 16 a.toNat :=
  (BitVec.ofNat_toNat 16 a).symm

/-- Settles O22: LDI ends in the protected write of the immediate. -/
theorem ldiStoresTheImmediate : Obligations.LdiStoresTheImmediate := by
  intro d a s
  rw [← immediate_eq_ofNat]
  exact writesProtected_of_exec rfl

/-- An instruction that ends in the shared store moves its cell, OUTPUT and the `pc` alone (R35). -/
theorem stores_of_exec (h : exec i s = storeFrom w a s) : Claims.Stores i w a s :=
  ⟨_, h.trans (storeFrom_eq w a s), cellSet_of_mem_eq rfl, fun _ => rfl, rfl, rfl, rfl, ⟨rfl, rfl, rfl, rfl⟩⟩

/-- Settles O24: ST is the shared store of `x[d]`, with no check before it. -/
theorem stStoresTheRegister : Obligations.StStoresTheRegister :=
  fun _ _ _ => stores_of_exec rfl

end Sys2Proof.Proofs
end

section
/-! PROOFS. The control instructions (spec/43_control.md R116 to R119): what a move of the `pc` alone leaves as it was, the
two ends of a branch, and CALL as a protected write that ends on its target. -/

open Sys2Proof Sys2Proof.Machine Sys2Proof.Machine.Laws

namespace Sys2Proof.Proofs

variable {i : Instr} {s : State} {p : Int} {c : Bool} {a : Addr}

/-! ### Branches and jumps -/

/-- An instruction that moves the `pc` alone completes with everything else as before (R13). -/
theorem setsPc_of_exec (h : exec i s = .next (s.setPc p)) : Claims.SetsPc i p s :=
  ⟨_, h, rfl, fun _ => rfl, fun _ => rfl, ⟨rfl, rfl, rfl, rfl⟩, rfl, rfl⟩

/-- A branch whose condition holds goes to its absolute target (R120). -/
theorem setsPc_of_branch_taken (h : exec i s = branchIf c a s) (hc : c = true) :
    Claims.SetsPc i (a.toNat : Int) s := by
  subst hc
  exact setsPc_of_exec h

/-- A branch whose condition fails goes to the next instruction (R76). -/
theorem setsPc_of_branch_not_taken (h : exec i s = branchIf c a s) (hc : c = false) :
    Claims.SetsPc i (s.pc + 1) s := by
  subst hc
  exact setsPc_of_exec h

/-- Settles O28: BZ is a branch on the zero test. -/
theorem bzBranchesOnZero : Obligations.BzBranchesOnZero := fun _ _ _ =>
  ⟨fun hzero => setsPc_of_branch_taken rfl (decide_eq_true hzero),
    fun hzero => setsPc_of_branch_not_taken rfl (decide_eq_false hzero)⟩

/-- Settles O29: BP is a branch on the positive test. -/
theorem bpBranchesOnPositive : Obligations.BpBranchesOnPositive := fun _ _ _ =>
  ⟨fun hpos => setsPc_of_branch_taken rfl (decide_eq_true hpos),
    fun hneg => setsPc_of_branch_not_taken rfl (decide_eq_false hneg.not_gt)⟩

/-- Settles O30: JR moves the `pc` alone, in every state. -/
theorem jrJumpsToRegisterPlusOne : Obligations.JrJumpsToRegisterPlusOne :=
  fun _ _ => setsPc_of_exec rfl

/-! ### CALL -/

/-- The link a CALL inside memory stores reads back as the address of the CALL (R6, R119). -/
theorem unsigned_toNat_of_fetchable (hp : fetchable p) : ((unsigned p).toNat : Int) = p := by
  obtain ⟨hlo, hhi⟩ := hp
  rw [unsigned_toNat (by omega) (by omega), if_pos hlo]

/-- Settles O31: CALL ends in the protected write of its own address, on its absolute target. -/
theorem callSavesItsAddressAndJumps : Obligations.CallSavesItsAddressAndJumps :=
  fun _ _ _ => ⟨writesProtected_of_exec rfl, fun hlo hhi => unsigned_toNat_of_fetchable ⟨hlo, hhi⟩⟩

end Sys2Proof.Proofs
end

section
/-! PROOFS. The run status (spec/10_state.md R16): every instruction but HLT keeps it or faults, so that HALT is reached by
HLT alone (spec/43_control.md R122). -/

open Sys2Proof Sys2Proof.Machine Sys2Proof.Machine.Laws

namespace Sys2Proof.Proofs

variable {i : Instr} {s t : State} {d r : RegIdx} {a : Addr} {w : Word} {p v : Int}

/-- The status is as before, or a fault was raised. -/
def StatusKeptOrFault (s t : State) : Prop := t.status = s.status ∨ t.status = .fault

theorem StatusKeptOrFault.of_kept (h : t.status = s.status) : StatusKeptOrFault s t := .inl h

theorem StatusKeptOrFault.of_fault (h : t.status = .fault) : StatusKeptOrFault s t := .inr h

/-! ### The shared operations -/

theorem writeBack_statusKeptOrFault (h : writeBack d w p s = .next t) : StatusKeptOrFault s t := by
  obtain ⟨-, rfl⟩ | ⟨-, rfl⟩ := writeBack_cases h
  · exact .of_fault rfl
  · exact .of_kept rfl

theorem aluFinish_statusKeptOrFault (h : aluFinish d v s = .next t) : StatusKeptOrFault s t := by
  obtain ⟨-, rfl⟩ | ⟨-, -, rfl⟩ | ⟨-, -, rfl⟩ := aluFinish_cases h
  · exact .of_fault rfl
  · exact .of_fault rfl
  · exact .of_kept rfl

theorem shiftFinish_statusKeptOrFault {f : Nat → Nat → Nat} {m c : Word} (h : shiftFinish d f m c s = .next t) :
    StatusKeptOrFault s t := by
  obtain ⟨-, rfl⟩ | ⟨-, h⟩ := shiftFinish_cases h
  · exact .of_fault rfl
  · exact aluFinish_statusKeptOrFault h

theorem storeFrom_status (h : storeFrom w a s = .next t) : t.status = s.status := by
  rw [storeFrom_eq] at h
  cases h
  rfl

/-- A load whose address is known raises nothing, held or not (R134). -/
theorem loadInto_status (h : loadInto d a s = .next t) : t.status = s.status := by
  obtain ⟨-, -, rfl⟩ | ⟨-, rfl⟩ | ⟨-, -, -, -, rfl⟩ := loadInto_cases h
  · rfl
  · rfl
  · rfl

theorem branchIf_status {c : Bool} (h : branchIf c a s = .next t) : t.status = s.status := by
  cases h
  cases c
  · rfl
  · rfl

/-! ### The instructions -/

theorem execLd_statusKeptOrFault (h : execLd d a s = .next t) : StatusKeptOrFault s t := by
  obtain rfl | h := execLd_cases h
  · exact .of_fault rfl
  · exact .of_kept (loadInto_status h)

theorem execLdx_statusKeptOrFault (h : execLdx d r s = .next t) : StatusKeptOrFault s t := by
  obtain rfl | rfl | ⟨a, -, h⟩ := execLdx_cases h
  · exact .of_fault rfl
  · exact .of_fault rfl
  · exact .of_kept (loadInto_status h)

theorem execStx_statusKeptOrFault (h : execStx d r s = .next t) : StatusKeptOrFault s t := by
  obtain rfl | ⟨a, -, h⟩ := execStx_cases h
  · exact .of_fault rfl
  · exact .of_kept (storeFrom_status h)

theorem execJr_status (h : execJr d s = .next t) : t.status = s.status := by
  cases h
  rfl

/-- HLT apart, an instruction keeps the status or raises a fault (R16). -/
theorem exec_statusKeptOrFault (hi : i ≠ .hlt) (h : exec i s = .next t) : StatusKeptOrFault s t := by
  cases i with
  | hlt => exact absurd rfl hi
  | add | sub | and | xor => exact aluFinish_statusKeptOrFault h
  | shl | shr => exact shiftFinish_statusKeptOrFault h
  | ldi | call => exact writeBack_statusKeptOrFault h
  | ld => exact execLd_statusKeptOrFault h
  | st => exact .of_kept (storeFrom_status h)
  | ldx => exact execLdx_statusKeptOrFault h
  | stx => exact execStx_statusKeptOrFault h
  | bz | bp => exact .of_kept (branchIf_status h)
  | jr => exact .of_kept (execJr_status h)

/-- Settles O41: a status kept is not HALT, and neither is FAULT. -/
theorem onlyHltHalts : Obligations.OnlyHltHalts := by
  intro i s t hrunning h hhalt
  by_contra hi
  obtain hkept | hfault := exec_statusKeptOrFault hi h
  · exact hrunning (hkept.symm.trans hhalt)
  · rw [hhalt] at hfault
    cases hfault

end Sys2Proof.Proofs
end

section
/-! PROOFS. The streams (spec/44_io_gateway.md R130 to R133): OUTPUT grows under a store to 0xFF alone, and INPUT is
consumed under a load from 0xFF that passes its register check alone (R75, 92 D9). -/

open Sys2Proof Sys2Proof.Machine Sys2Proof.Machine.Laws

namespace Sys2Proof.Proofs

variable {i : Instr} {s t : State} {d r : RegIdx} {a : Addr} {w : Word} {p v : Int}

/-! ### The shared operations that leave the streams alone -/

theorem raise_streamsKept (c : FaultCause) (v : Int) (s : State) : Claims.StreamsKept s (s.raise c v) := ⟨rfl, rfl⟩

theorem writeBack_streamsKept (h : writeBack d w p s = .next t) : Claims.StreamsKept s t := by
  obtain ⟨-, rfl⟩ | ⟨-, rfl⟩ := writeBack_cases h
  · exact raise_streamsKept ..
  · exact ⟨rfl, rfl⟩

theorem aluFinish_streamsKept (h : aluFinish d v s = .next t) : Claims.StreamsKept s t := by
  obtain ⟨-, rfl⟩ | ⟨-, -, rfl⟩ | ⟨-, -, rfl⟩ := aluFinish_cases h
  · exact raise_streamsKept ..
  · exact raise_streamsKept ..
  · exact ⟨rfl, rfl⟩

theorem shiftFinish_streamsKept {f : Nat → Nat → Nat} {m c : Word} (h : shiftFinish d f m c s = .next t) :
    Claims.StreamsKept s t := by
  obtain ⟨-, rfl⟩ | ⟨-, h⟩ := shiftFinish_cases h
  · exact raise_streamsKept ..
  · exact aluFinish_streamsKept h

theorem branchIf_streamsKept {c : Bool} (h : branchIf c a s = .next t) : Claims.StreamsKept s t := by
  cases h
  cases c
  · exact ⟨rfl, rfl⟩
  · exact ⟨rfl, rfl⟩

/-! ### What an instruction may do to the streams -/

/-- OUTPUT gains the stored Word under a store to the I/O address, INPUT loses its first Word under a load from it whose
destination is not register 0, and otherwise neither moves (R132, R133). -/
structure StreamFrame (i : Instr) (s t : State) : Prop where
  output : t.output =
    if storeAddr i s = some Config.ioAddr then s.output ++ [t.cell Config.ioAddr] else s.output
  input : t.input =
    if loadAddr i s = some Config.ioAddr ∧ regWritten i ≠ some 0#4 then s.input.tail else s.input

/-- Kept streams are in the frame of an instruction that stores nowhere, and loads nowhere or into register 0. -/
theorem StreamFrame.of_kept (hst : storeAddr i s = none) (hld : loadAddr i s = none ∨ regWritten i = some 0#4)
    (h : Claims.StreamsKept s t) : StreamFrame i s t := by
  obtain ⟨hinput, houtput⟩ := h
  have hnoStore : storeAddr i s ≠ some Config.ioAddr := by simp [hst]
  have hnoRead : ¬ (loadAddr i s = some Config.ioAddr ∧ regWritten i ≠ some 0#4) := by
    rintro ⟨hio, hreg⟩
    obtain hnone | hzero := hld
    · simp [hnone] at hio
    · exact hreg hzero
  exact ⟨houtput.trans (if_neg hnoStore).symm, hinput.trans (if_neg hnoRead).symm⟩

/-- At the I/O address the Word a store emits is the one its cell then reads (R35). -/
theorem StreamFrame.of_storeFrom (hst : storeAddr i s = some a) (hld : loadAddr i s = none)
    (h : storeFrom w a s = .next t) : StreamFrame i s t := by
  rw [storeFrom_eq] at h
  cases h
  constructor
  · by_cases ha : a = Config.ioAddr
    · subst ha
      simp [hst, State.cell]
    · simp [hst, ha]
  · simp [hld]

/-- A load that waits finds no Word to lose (R134); one at a cell takes none. -/
theorem StreamFrame.of_loadInto (hst : storeAddr i s = none) (hld : loadAddr i s = some a)
    (hreg : regWritten i = some d) (hd : d ≠ 0#4) (h : loadInto d a s = .next t) : StreamFrame i s t := by
  obtain ⟨rfl, hempty, rfl⟩ | ⟨ha, rfl⟩ | ⟨rfl, w, rest, hinput, rfl⟩ := loadInto_cases h
  · exact ⟨by simp [hst], by simp [hempty]⟩
  · exact ⟨by simp [hst], by simp [hld, ha]⟩
  · exact ⟨by simp [hst], by simp [hld, hreg, hd, hinput]⟩

/-! ### The instructions -/

theorem execLd_streamFrame (h : execLd d a s = .next t) : StreamFrame (.ld d a) s t := by
  by_cases hd : d = 0#4
  · subst hd
    cases h
    exact .of_kept rfl (.inr rfl) (raise_streamsKept ..)
  · rw [execLd, if_neg hd] at h
    exact .of_loadInto rfl rfl rfl hd h

theorem execLdx_streamFrame (h : execLdx d r s = .next t) : StreamFrame (.ldx d r) s t := by
  by_cases hd : d = 0#4
  · subst hd
    cases h
    exact .of_kept rfl (.inr rfl) (raise_streamsKept ..)
  · rw [execLdx, if_neg hd] at h
    split at h
    · next hr => cases h; exact .of_kept rfl (.inl hr) (raise_streamsKept ..)
    · next ha => exact .of_loadInto rfl ha rfl hd h

theorem execStx_streamFrame (h : execStx d r s = .next t) : StreamFrame (.stx d r) s t := by
  unfold execStx at h
  split at h
  · next hr => cases h; exact .of_kept hr (.inl rfl) (raise_streamsKept ..)
  · next ha => exact .of_storeFrom ha rfl h

/-- Everything an instruction can do to the streams (R130). -/
theorem exec_streamFrame (h : exec i s = .next t) : StreamFrame i s t := by
  cases i with
  | hlt | jr => cases h; exact .of_kept rfl (.inl rfl) ⟨rfl, rfl⟩
  | add | sub | and | xor => exact .of_kept rfl (.inl rfl) (aluFinish_streamsKept h)
  | shl | shr => exact .of_kept rfl (.inl rfl) (shiftFinish_streamsKept h)
  | ldi | call => exact .of_kept rfl (.inl rfl) (writeBack_streamsKept h)
  | ld => exact execLd_streamFrame h
  | st => exact .of_storeFrom rfl rfl h
  | ldx => exact execLdx_streamFrame h
  | stx => exact execStx_streamFrame h
  | bz | bp => exact .of_kept rfl (.inl rfl) (branchIf_streamsKept h)

/-- Settles O37, by the frame of every instruction. -/
theorem streamsMoveOnlyAtTheIoAddress : Obligations.StreamsMoveOnlyAtTheIoAddress := by
  intro i s t h
  obtain ⟨houtput, hinput⟩ := exec_streamFrame h
  exact ⟨houtput, hinput⟩

end Sys2Proof.Proofs
end

section
/-! PROOFS. Fault priority (spec/60_exceptions.md R157, R158, 92 D8): an instruction takes the fault of the first condition
that holds, by one lemma per cause, and goes on where none holds; a step that faults did so at its fetch, or by the first
fault of the instruction it fetched. -/

open Sys2Proof Sys2Proof.Machine Sys2Proof.Machine.Laws

namespace Sys2Proof.Proofs

variable {i : Instr} {s t : State} {d r : RegIdx} {a : Addr} {w : Word} {p v : Int} {c : FaultCause}

/-! ### The first fault, condition by condition -/

/-- A condition is the first when it holds and none before it does (92 D8). -/
theorem firstFault_cases (h : Claims.firstFault i s = some (c, v)) :
    (Claims.shiftCount i s < 0 ∧ c = .shiftCount ∧ v = Claims.shiftCount i s) ∨
    (0 ≤ Claims.shiftCount i s ∧ Claims.OutOfRange (Claims.exactResult i s) ∧
      c = .arithmeticRange ∧ v = Claims.exactResult i s) ∨
    (0 ≤ Claims.shiftCount i s ∧ ¬ Claims.OutOfRange (Claims.exactResult i s) ∧ regWritten i = some 0#4 ∧
      c = .reservedRegister ∧ v = 0) ∨
    (regWritten i ≠ some 0#4 ∧ 255 < Claims.indirectAddress i s ∧
      c = .dataAddress ∧ v = (Claims.indirectAddress i s : Int)) := by
  unfold Claims.firstFault at h
  split at h
  · next hcount => cases h; exact .inl ⟨hcount, rfl, rfl⟩
  next hcount =>
  split at h
  · next hr => cases h; exact .inr (.inl ⟨not_lt.mp hcount, hr, rfl, rfl⟩)
  next hr =>
  split at h
  · next hd => cases h; exact .inr (.inr (.inl ⟨not_lt.mp hcount, hr, hd, rfl, rfl⟩))
  next hd =>
  split at h
  · next haddr => cases h; exact .inr (.inr (.inr ⟨hd, haddr, rfl, rfl⟩))
  · cases h

/-- There is no fault to take when none of the four conditions holds. -/
theorem conditions_of_firstFault_eq_none (h : Claims.firstFault i s = none) :
    0 ≤ Claims.shiftCount i s ∧ ¬ Claims.OutOfRange (Claims.exactResult i s) ∧ regWritten i ≠ some 0#4 ∧
      Claims.indirectAddress i s ≤ 255 := by
  simpa only [Claims.firstFault, ite_eq_iff, reduceCtorEq, and_false, false_or, and_true, not_lt] using h

/-! ### Indirect accesses -/

theorem exists_indirect_eq_some (h : magnitude (s.reg r) ≤ 255) : ∃ a, s.indirect r = some a :=
  Option.ne_none_iff_exists'.mp fun hnone => h.not_gt (indirect_eq_none.mp hnone)

theorem exec_ldx_of_unresolved (hd : d ≠ 0#4) (hr : s.indirect r = none) :
    exec (.ldx d r) s = .next (s.raiseDataAddress r) := by
  simp [exec, execLdx, hd, hr]

theorem exec_ldx_of_resolved (hd : d ≠ 0#4) (hr : s.indirect r = some a) : exec (.ldx d r) s = loadInto d a s := by
  simp [exec, execLdx, hd, hr]

theorem exec_stx_of_unresolved (hr : s.indirect r = none) : exec (.stx d r) s = .next (s.raiseDataAddress r) := by
  simp [exec, execStx, hr]

theorem exec_stx_of_resolved (hr : s.indirect r = some a) : exec (.stx d r) s = storeFrom (s.reg d) a s := by
  simp [exec, execStx, hr]

/-- With a destination that can be written, an indirect access above 0x00FF faults before any data access (R37, R103). -/
theorem exec_of_high_address (hd : regWritten i ≠ some 0#4) (haddr : 255 < Claims.indirectAddress i s) :
    exec i s = .next (s.raise .dataAddress (Claims.indirectAddress i s : Int)) := by
  cases i with
  | ldx => exact exec_ldx_of_unresolved (ne_of_apply_ne some hd) (indirect_eq_none.mpr haddr)
  | stx => exact exec_stx_of_unresolved (indirect_eq_none.mpr haddr)
  | _ => exact absurd haddr (Nat.not_lt_zero 255)

/-- The fault taken is the first one (R157), and its entry is that of R158. -/
theorem exec_of_firstFault_eq_some (h : Claims.firstFault i s = some (c, v)) : exec i s = .next (s.raise c v) := by
  obtain ⟨hcount, rfl, rfl⟩ | ⟨hcount, hr, rfl, rfl⟩ | ⟨hcount, hr, hd, rfl, rfl⟩ | ⟨hd, haddr, rfl, rfl⟩ :=
    firstFault_cases h
  · exact exec_of_negative_count hcount
  · exact exec_of_outOfRange hcount hr
  · exact exec_of_register_zero hcount hr hd
  · exact exec_of_high_address hd haddr

/-! ### No fault to take -/

/-- No fault is taken: `i` completes or waits, with the status, the record and the configuration bits as before. -/
def GoesOn (i : Instr) (s : State) : Prop := ∃ t, exec i s = .next t ∧ Claims.ControlKept s t

theorem GoesOn.of_setsReg (h : Claims.SetsReg i d w p s) : GoesOn i s := by
  obtain ⟨t, hexec, -, -, -, hcontrol, -⟩ := h
  exact ⟨t, hexec, hcontrol⟩

theorem GoesOn.of_setsPc (h : Claims.SetsPc i p s) : GoesOn i s := by
  obtain ⟨t, hexec, -, -, -, hcontrol, -⟩ := h
  exact ⟨t, hexec, hcontrol⟩

theorem GoesOn.of_stores (h : Claims.Stores i w a s) : GoesOn i s := by
  obtain ⟨t, hexec, -, -, -, -, -, hcontrol⟩ := h
  exact ⟨t, hexec, hcontrol⟩

theorem GoesOn.of_writeBack (h : exec i s = writeBack d w p s) (hd : d ≠ 0#4) : GoesOn i s :=
  .of_setsReg ((writesProtected_of_exec h).2 hd)

theorem GoesOn.of_aluFinish (h : exec i s = aluFinish d v s) (hv : ¬ Claims.OutOfRange v) (hd : d ≠ 0#4) :
    GoesOn i s :=
  .of_writeBack (h.trans (aluFinish_of_inRange hv)) hd

theorem GoesOn.of_branchIf {b : Bool} (h : exec i s = branchIf b a s) : GoesOn i s := by
  cases b
  · exact .of_setsPc (setsPc_of_branch_not_taken h rfl)
  · exact .of_setsPc (setsPc_of_branch_taken h rfl)

/-- A load whose address is known completes or, held, answers the state it was given (R134). -/
theorem GoesOn.of_loadInto (h : exec i s = loadInto d a s) : GoesOn i s := by
  by_cases ha : a = Config.ioAddr
  · subst ha
    cases hi : s.input with
    | nil => exact ⟨_, h.trans (loadInto_hold d hi), rfl, rfl, rfl, rfl⟩
    | cons => exact ⟨_, h.trans (loadInto_io d hi), rfl, rfl, rfl, rfl⟩
  · exact ⟨_, h.trans (loadInto_cell ha d s), rfl, rfl, rfl, rfl⟩

/-- HLT apart, an instruction that meets none of the conditions goes on (R157). -/
theorem goesOn_of_firstFault_eq_none (hi : i ≠ .hlt) (h : Claims.firstFault i s = none) : GoesOn i s := by
  obtain ⟨hcount, hr, hd, haddr⟩ := conditions_of_firstFault_eq_none h
  cases i with
  | hlt => exact absurd rfl hi
  | add | sub | and | xor => exact .of_aluFinish rfl hr (ne_of_apply_ne some hd)
  | shl | shr => exact .of_aluFinish (shiftFinish_of_nonneg hcount) hr (ne_of_apply_ne some hd)
  | ldi | call => exact .of_writeBack rfl (ne_of_apply_ne some hd)
  | ld => exact .of_loadInto (exec_ld_of_ne (ne_of_apply_ne some hd))
  | st => exact .of_stores (stores_of_exec rfl)
  | ldx =>
    obtain ⟨a, ha⟩ := exists_indirect_eq_some haddr
    exact .of_loadInto (exec_ldx_of_resolved (ne_of_apply_ne some hd) ha)
  | stx =>
    obtain ⟨a, ha⟩ := exists_indirect_eq_some haddr
    exact .of_stores (stores_of_exec (exec_stx_of_resolved ha))
  | bz | bp => exact .of_branchIf rfl
  | jr => exact .of_setsPc (setsPc_of_exec rfl)

/-- Settles O60: the entry of the first fault, and a next state without one where there is none; HLT changes the status alone. -/
theorem instructionTakesItsFirstFault : Obligations.InstructionTakesItsFirstFault := by
  refine fun i s => ⟨fun c v h => faults_of_exec (exec_of_firstFault_eq_some h), fun h => ?_⟩
  by_cases hi : i = .hlt
  · subst hi
    exact ⟨_, rfl, rfl, rfl⟩
  · obtain ⟨t, hexec, hstatus, hfault, -⟩ := goesOn_of_firstFault_eq_none hi h
    exact ⟨t, hexec, hfault, hstatus.trans (if_neg hi).symm⟩

/-- Settles O32: a fault entry answers a next state, and so does an instruction with no fault to take. -/
theorem everyInstructionAnswersANextState : Obligations.EveryInstructionAnswersANextState := by
  intro i s
  obtain ⟨hsome, hnone⟩ := instructionTakesItsFirstFault i s
  cases h : Claims.firstFault i s with
  | none =>
    obtain ⟨t, hexec, -⟩ := hnone h
    exact ⟨t, hexec⟩
  | some f =>
    obtain ⟨t, hexec, -⟩ := hsome f.1 f.2 h
    exact ⟨t, hexec⟩

/-! ### A step that faults -/

/-- A count is a Word's signed reading, and so no lower than the least of them (R5). -/
theorem neg_32768_le_shiftCount (i : Instr) (s : State) : -32768 ≤ Claims.shiftCount i s := by
  cases i with
  | shl | shr => exact (signed_range _).1
  | _ => exact (by decide : (-32768 : Int) ≤ 0)

/-- The address of an indirect access is a Word's magnitude (R37). -/
theorem indirectAddress_le_65535 (i : Instr) (s : State) : Claims.indirectAddress i s ≤ 65535 := by
  cases i with
  | ldx | stx => exact Nat.le_of_lt_succ (BitVec.isLt _)
  | _ => exact Nat.zero_le 65535

/-- The first fault of an instruction fetched from memory records what R150 gives its cause. -/
theorem coherent_of_firstFault (hp : fetchable p) (h : Claims.firstFault i s = some (c, v)) :
    FaultRecord.coherent ⟨c, p, v⟩ := by
  obtain ⟨hcount, rfl, rfl⟩ | ⟨-, hr, rfl, rfl⟩ | ⟨-, -, -, rfl, rfl⟩ | ⟨-, haddr, rfl, rfl⟩ := firstFault_cases h
  · exact ⟨hp, neg_32768_le_shiftCount i s, hcount⟩
  · exact ⟨hp, ovf_eq_true.mpr hr⟩
  · exact ⟨hp, rfl⟩
  · exact ⟨hp, Int.ofNat_lt.mpr haddr, Int.ofNat_le.mpr (indirectAddress_le_65535 i s)⟩

theorem firstFault_cause_ne_none (h : Claims.firstFault i s = some (c, v)) : c ≠ .none := by
  obtain ⟨-, rfl, -⟩ | ⟨-, -, rfl, -⟩ | ⟨-, -, -, rfl, -⟩ | ⟨-, -, rfl, -⟩ := firstFault_cases h <;> nofun

/-- An instruction executed in status RUN reaches FAULT by the entry of its first fault alone. -/
theorem firstFault_of_exec_fault (hs : s.status = .run) (h : exec i s = .next t) (ht : t.status = .fault) :
    ∃ c v, Claims.firstFault i s = some (c, v) ∧ t = s.raise c v := by
  cases hf : Claims.firstFault i s with
  | none =>
    obtain ⟨u, hu, -, hstatus⟩ := (instructionTakesItsFirstFault i s).2 hf
    obtain rfl : t = u := by injection h.symm.trans hu
    rw [ht, hs] at hstatus
    split at hstatus <;> cases hstatus
  | some f =>
    obtain ⟨c, v⟩ := f
    have hraise := exec_of_firstFault_eq_some hf
    exact ⟨c, v, rfl, by injection h.symm.trans hraise⟩

/-- Settles O33: the step faulted at its fetch, or took the first fault of the instruction it fetched. -/
theorem faultEntryChangesNothingElse : Obligations.FaultEntryChangesNothingElse := by
  intro s t hstep ht
  obtain ⟨hs, ⟨hout, rfl⟩ | ⟨ir, hfetch, hexec⟩⟩ := cycle_cases hstep
  · exact ⟨raise_faultTaken .fetchAddress 0 s, nofun, ⟨hout, rfl⟩, .inl ⟨hout, rfl, rfl⟩⟩
  · obtain ⟨a, hpc, rfl⟩ := fetch_eq_some.mp hfetch
    obtain ⟨c, v, hfirst, rfl⟩ := firstFault_of_exec_fault hs hexec ht
    have hmem : fetchable s.pc := by
      have ha := a.isLt
      constructor <;> omega
    exact ⟨raise_faultTaken c v s, firstFault_cause_ne_none hfirst, coherent_of_firstFault hmem hfirst,
      .inr ⟨a, hpc, hfirst⟩⟩

end Sys2Proof.Proofs
end

section
/-! PROOFS. The fields an instruction does not use (spec/30_encoding.md R52, R56): what the encoder makes of a decoded Word,
and that the digits it drops do not select another instruction. -/

open Sys2Proof Sys2Proof.Laws

namespace Sys2Proof.Proofs

/-- The low byte of a Word in the format RR is its two indices (R52). -/
theorem toNat_toWord_rr (op : BitVec 4) (d s t : RegIdx) :
    (Fields.rr op d s t).toWord.toNat = 4096 * op.toNat + 256 * d.toNat + 16 * s.toNat + t.toNat :=
  toNat_toWord (Fields.rr op d s t)

/-- The low byte of a Word in the format A is its operand `addr` (R52). -/
theorem toNat_toWord_a (op : BitVec 4) (d : RegIdx) (a : Addr) :
    (Fields.a op d a).toWord.toNat = 4096 * op.toNat + 256 * d.toNat + a.toNat := by
  have hword := toNat_toWord (Fields.a op d a)
  have hlow : a.toNat = 16 * (Fields.a op d a).s.toNat + (Fields.a op d a).t.toNat := wf_iff.mp (FieldForm.a_wf op d a)
  have hop : (Fields.a op d a).op = op := rfl
  have hd : (Fields.a op d a).d = d := rfl
  rw [hop, hd] at hword
  omega

/-- The encoding of the instruction a form selects: the fields of the form that the instruction uses (R56, R59). -/
theorem toNat_encode_toInstr {f : Fields} (hwf : f.wf = true) :
    (encode f.toInstr).toNat =
      if f.op.toNat = 0 then 0
      else if f.op.toNat = 10 ∨ f.op.toNat = 11 then 4096 * f.op.toNat + 256 * f.d.toNat + f.t.toNat
      else if f.op.toNat = 14 then 4096 * f.op.toNat + 256 * f.d.toNat
      else 4096 * f.op.toNat + 256 * f.d.toNat + f.addr.toNat := by
  have hop : f.op.toNat < 16 := f.op.isLt
  have haddr := wf_iff.mp hwf
  unfold Fields.toInstr
  interval_cases f.op.toNat <;>
    simp [encode, Instr.fields, Instr.opcode, toNat_toWord_rr, toNat_toWord_a, haddr, Nat.add_assoc]

/-- Settles O4: the digits of the Word are the fields of its form, of which the encoder writes those that are used. -/
theorem encodeOfDecodeKeepsUsedFields : Obligations.EncodeOfDecodeKeepsUsedFields := by
  intro w
  obtain ⟨hop, hd, -, ht, haddr⟩ := ofWord_toNat w
  have hencode := toNat_encode_toInstr (ofWord_wf w)
  rw [hop, hd, ht, haddr] at hencode
  rw [decodeWord, hencode]
  split_ifs <;> omega

/-- A decoded Word is known by its encoding. -/
theorem decodeWord_eq_of_encode_eq {w w' : Word}
    (h : (encode (decodeWord w)).toNat = (encode (decodeWord w')).toNat) : decodeWord w = decodeWord w' := by
  have hencode := congrArg decodeWord (BitVec.eq_of_toNat_eq h)
  rwa [decodeOfEncodeIsTheInstruction, decodeOfEncodeIsTheInstruction] at hencode

/-- Settles O6: Words that agree in the used fields have the same encoding after decoding. -/
theorem unusedFieldsDoNotChangeTheInstruction : Obligations.UnusedFieldsDoNotChangeTheInstruction := by
  intro w w' hop
  have hw := encodeOfDecodeKeepsUsedFields w
  have hw' := encodeOfDecodeKeepsUsedFields w'
  rw [← hop] at hw'
  refine ⟨fun h0 => ?_, fun h14 hd => ?_, fun hAB hd ht => ?_⟩ <;> apply decodeWord_eq_of_encode_eq <;> rw [hw, hw']
  · simp only [h0, if_true]
  · simp [h14, hd]
  · simp only [hAB, hd, ht, if_true]

/-- Settles O7: eight Words, decoded. -/
theorem specDecoderVectorsDecode : Obligations.SpecDecoderVectorsDecode := by
  unfold Obligations.SpecDecoderVectorsDecode
  decide

end Sys2Proof.Proofs
end

section
/-! PROOFS. The ALU instructions that are left (spec/41_alu.md R87, R90, R91), what is stored when none of the six faults
(R93), and the overflow output by sign bits (R92). -/

open Sys2Proof Sys2Proof.Machine Sys2Proof.Machine.Laws

namespace Sys2Proof.Proofs

variable {i : Instr} {s t : State} {d : RegIdx} {m c : Word} {r : Int} {n : Nat} {f : Nat → Nat → Nat}

/-! ### SUB and the shifts -/

/-- Settles O17, by the skeleton of R85 for the difference. -/
theorem subStoresTheDifferenceOrFaults : Obligations.SubStoresTheDifferenceOrFaults :=
  fun _ _ _ _ => aluSkeleton_of_exec rfl

theorem unsigned_natCast (n : Nat) : unsigned (n : Int) = BitVec.ofNat 16 n := by
  rw [unsigned, if_pos (Int.natCast_nonneg n), BitVec.ofInt_natCast]

/-- A shift checks its count, and then has the skeleton of R85 for the exact result on the magnitude (R90, R91). -/
theorem shift_of_exec (h : exec i s = shiftFinish d f m c s) :
    (signed c < 0 → Claims.Faults i .shiftCount (signed c) s) ∧
    (0 ≤ signed c →
      Claims.AluSkeleton i d (f m.toNat (signed c).toNat : Nat) (BitVec.ofNat 16 (f m.toNat (signed c).toNat)) s) := by
  constructor
  · intro hc
    exact faults_of_exec (h.trans (shiftFinish_of_neg hc))
  · intro hc
    rw [← unsigned_natCast]
    exact aluSkeleton_of_exec (h.trans (shiftFinish_of_nonneg hc))

/-- Settles O20: SHL is a shift by multiplication. -/
theorem shlShiftsTheMagnitudeLeftOrFaults : Obligations.ShlShiftsTheMagnitudeLeftOrFaults :=
  fun _ _ _ _ => shift_of_exec (f := shiftLeftExact) rfl

/-- Settles O21: SHR is a shift by division. -/
theorem shrShiftsTheMagnitudeRightOrFaults : Obligations.ShrShiftsTheMagnitudeRightOrFaults :=
  fun _ _ _ _ => shift_of_exec (f := shiftRightExact) rfl

/-! ### The exact result is stored -/

/-- Without a fault, the end of an ALU instruction stores the Word of a result in range (R85). -/
theorem aluFinish_of_noFault (ht : t.status ≠ .fault) (h : aluFinish d r s = .next t) :
    ovf r = false ∧ t.reg d = unsigned r := by
  obtain ⟨-, rfl⟩ | ⟨-, -, rfl⟩ | ⟨hr, -, rfl⟩ := aluFinish_cases h
  · exact absurd rfl ht
  · exact absurd rfl ht
  · exact ⟨hr, State.setReg_reg_self s d (unsigned r)⟩

theorem signed_reg_of_aluFinish (ht : t.status ≠ .fault) (h : aluFinish d r s = .next t) : signed (t.reg d) = r := by
  obtain ⟨hr, hreg⟩ := aluFinish_of_noFault ht h
  rw [hreg, signed_unsigned hr]

theorem toNat_reg_of_aluFinish (ht : t.status ≠ .fault) (h : aluFinish d (n : Int) s = .next t) :
    (t.reg d).toNat = n := by
  obtain ⟨hr, hreg⟩ := aluFinish_of_noFault ht h
  have hrange := ovf_eq_false.mp hr
  rw [hreg, unsigned_natCast, BitVec.toNat_ofNat, Nat.mod_eq_of_lt (by omega)]

/-- Without a fault, the count of a shift was not negative and the exact result is stored (R90, R91). -/
theorem toNat_reg_of_shiftFinish (ht : t.status ≠ .fault) (h : shiftFinish d f m c s = .next t) :
    0 ≤ signed c ∧ (t.reg d).toNat = f m.toNat (signed c).toNat := by
  obtain ⟨-, rfl⟩ | ⟨hc, h⟩ := shiftFinish_cases h
  · exact absurd rfl ht
  · exact ⟨hc, toNat_reg_of_aluFinish ht h⟩

/-- Settles O45: both end in the common end of the ALU. -/
theorem sumAndDifferenceAreStoredExactly : Obligations.SumAndDifferenceAreStoredExactly :=
  fun _ _ _ _ _ _ ht => ⟨signed_reg_of_aluFinish ht, signed_reg_of_aluFinish ht⟩

/-- Settles O46: both end in the common end of the shifts. -/
theorem shiftsAreStoredExactly : Obligations.ShiftsAreStoredExactly :=
  fun _ _ _ _ _ _ ht =>
    ⟨toNat_reg_of_shiftFinish (f := shiftLeftExact) ht, toNat_reg_of_shiftFinish (f := shiftRightExact) ht⟩

/-! ### Overflow by sign bits -/

/-- `ovf` in the library's terms: the bounds of a signed reading as powers of two. -/
theorem ovf_eq_decide_pow (r : Int) : ovf r = (decide (r ≥ 2 ^ (16 - 1)) || decide (r < -2 ^ (16 - 1))) := by
  rw [Bool.eq_iff_iff, ovf_eq_true, Bool.or_eq_true, decide_eq_true_eq, decide_eq_true_eq]
  omega

theorem ovf_add_eq_saddOverflow (x y : Word) : ovf (signed x + signed y) = x.saddOverflow y := by
  rw [signed_eq_toInt, signed_eq_toInt]
  exact ovf_eq_decide_pow _

theorem ovf_sub_eq_ssubOverflow (x y : Word) : ovf (signed x - signed y) = x.ssubOverflow y := by
  rw [signed_eq_toInt, signed_eq_toInt]
  exact ovf_eq_decide_pow _

/-- Settles O44, from the library's overflow conditions by sign bits. -/
theorem overflowBySignBits : Obligations.OverflowBySignBits := by
  intro x y
  constructor
  · rw [ovf_add_eq_saddOverflow, BitVec.saddOverflow_eq]
    simp
  · rw [ovf_sub_eq_ssubOverflow, BitVec.ssubOverflow_eq]
    cases x.msb <;> cases y.msb <;> simp

end Sys2Proof.Proofs
end

section
/-! PROOFS. The loads and the indirect store whole (spec/42_memory_access.md R101, R103, R104), and what a store and a load
give to the steps after them (spec/20_memory.md R41, R44, spec/44_io_gateway.md R134). -/

open Sys2Proof Sys2Proof.Machine Sys2Proof.Machine.Laws

namespace Sys2Proof.Proofs

variable {i : Instr} {s : State} {d r : RegIdx} {a : Addr}

/-! ### The instructions -/

/-- At a cell a load writes its register alone. -/
theorem setsReg_of_loadInto (h : exec i s = loadInto d a s) (ha : a ≠ Config.ioAddr) :
    Claims.SetsReg i d (s.cell a) (s.pc + 1) s :=
  setsReg_of_exec (h.trans (loadInto_cell ha d s))

/-- An instruction that ends in the shared load reads a cell, takes an input Word, or waits (R34, R134). -/
theorem loads_of_exec (h : exec i s = loadInto d a s) : Claims.Loads i d a s := by
  refine ⟨setsReg_of_loadInto h, ?_, ?_⟩
  · rintro rfl hinput
    exact h.trans (loadInto_hold d hinput)
  · rintro w rest rfl hinput
    have hreg (q : RegIdx) (hq : q ≠ d) : (s.setReg d w).reg q = s.reg q := State.setReg_reg_ne s hq w
    exact ⟨_, h.trans (loadInto_io d hinput), ⟨State.setReg_reg_self s d w, hreg⟩, cellSet_of_mem_eq rfl, rfl, rfl, rfl,
      rfl, rfl, rfl, rfl⟩

/-- Settles O23: the write to register 0 is refused first, and else LD is the shared load. -/
theorem ldLoadsTheCellOrTheInputWord : Obligations.LdLoadsTheCellOrTheInputWord := by
  refine fun d a s => ⟨?_, fun hd => loads_of_exec (exec_ld_of_ne hd)⟩
  rintro rfl
  exact faults_of_exec (c := .reservedRegister) rfl

/-- An address register whose magnitude is that of a cell resolves to it (R37). -/
theorem exists_indirect_of_le (h : (s.reg r).toNat ≤ 255) :
    ∃ a, s.indirect r = some a ∧ a.toNat = (s.reg r).toNat := by
  obtain ⟨a, ha⟩ := exists_indirect_eq_some h
  exact ⟨a, ha, (indirect_eq_some.mp ha).symm⟩

/-- Settles O25: the write to register 0 is refused first, then the address resolves or faults. -/
theorem ldxLoadsThroughTheAddressRegister : Obligations.LdxLoadsThroughTheAddressRegister := by
  intro d r s
  refine ⟨?_, fun hd hhigh => ?_, fun hd hlow => ?_⟩
  · rintro rfl
    exact faults_of_exec (c := .reservedRegister) rfl
  · exact faults_of_exec (exec_ldx_of_unresolved hd (indirect_eq_none.mpr hhigh))
  · obtain ⟨a, ha, hmag⟩ := exists_indirect_of_le hlow
    exact ⟨a, ha, hmag, loads_of_exec (exec_ldx_of_resolved hd ha)⟩

/-- Settles O26: the address resolves or faults, and a resolved STX is the shared store. -/
theorem stxStoresThroughTheAddressRegister : Obligations.StxStoresThroughTheAddressRegister := by
  intro d r s
  refine ⟨fun hhigh => ?_, fun hlow => ?_⟩
  · exact faults_of_exec (exec_stx_of_unresolved (indirect_eq_none.mpr hhigh))
  · obtain ⟨a, ha, hmag⟩ := exists_indirect_of_le hlow
    exact ⟨a, ha, hmag, stores_of_exec (exec_stx_of_resolved ha)⟩

/-! ### A store and the step after it -/

/-- Settles O48: the store leaves its Word in the cell the load reads. -/
theorem storedWordIsLoadedBack : Obligations.StoredWordIsLoadedBack := by
  intro d d' a s u ha hd' hst
  obtain ⟨_, hu, ⟨hcell, -⟩, -⟩ := stStoresTheRegister d a s
  cases hu.symm.trans hst
  obtain ⟨t, hload, ⟨hreg, -⟩, -⟩ := setsReg_of_loadInto (exec_ld_of_ne hd') ha
  exact ⟨t, hload, hreg.trans hcell⟩

/-- Settles O51: the store ends at the cell it wrote, still in status RUN. -/
theorem storeIsSeenByTheNextFetch : Obligations.StoreIsSeenByTheNextFetch := by
  intro d a s u hs hpc hst
  obtain ⟨_, hu, ⟨hcell, -⟩, -, hnext, -, -, hstatus, -⟩ := stStoresTheRegister d a s
  cases hu.symm.trans hst
  rw [← hcell]
  exact stepRunsTheDecodedInstruction u a (hstatus.trans hs) (hnext.trans hpc)

/-! ### A load that waits -/

/-- A load whose address memory has, and whose destination can be written, is the shared load (R105). -/
theorem exec_of_loadAddr (ha : loadAddr i s = some a) (hr : regWritten i = some d) (hd : d ≠ 0#4) :
    exec i s = loadInto d a s := by
  cases i with
  | ld => cases ha; cases hr; exact exec_ld_of_ne hd
  | ldx => cases hr; exact exec_ldx_of_resolved hd ha
  | _ => cases ha

/-- The address a load reads does not depend on the input supplied. -/
theorem loadAddr_supplyInput (i : Instr) (s : State) (w : Word) : loadAddr i (s.supplyInput w) = loadAddr i s := by
  cases i <;> rfl

/-- Settles O50: the load is the shared one, before the Word is supplied and after. -/
theorem holdIsLiftedByTheInputWord : Obligations.HoldIsLiftedByTheInputWord := by
  intro i d s ha hr hd hempty
  obtain ⟨-, hheld, -⟩ := loads_of_exec (exec_of_loadAddr ha hr hd)
  refine ⟨hheld rfl hempty, fun w => ?_⟩
  have hsupplied : (s.supplyInput w).input = [w] := by rw [State.supplyInput_input, hempty, List.nil_append]
  have ha' := (loadAddr_supplyInput i s w).trans ha
  obtain ⟨-, -, hlifted⟩ := loads_of_exec (exec_of_loadAddr ha' hr hd)
  obtain ⟨t, hexec, hreg, hcell, hpc, hinput, houtput, hcontrol⟩ := hlifted w [] rfl hsupplied
  exact ⟨t, hexec, hreg, hcell, hpc, hcontrol, hinput, houtput⟩

end Sys2Proof.Proofs
end

section
/-! PROOFS. The frame of the registers (spec/10_state.md R10 to R12): what the shared operations and then the instructions
leave in a register that is not their destination, and that no step mutates register 0. -/

open Sys2Proof Sys2Proof.Machine Sys2Proof.Machine.Laws

namespace Sys2Proof.Proofs

variable {i : Instr} {s t : State} {d r q : RegIdx} {a : Addr} {w : Word} {p v : Int}

/-! ### The shared operations -/

theorem writeBack_reg (hq : q ≠ d) (h : writeBack d w p s = .next t) : t.reg q = s.reg q := by
  obtain ⟨-, rfl⟩ | ⟨-, rfl⟩ := writeBack_cases h
  · rfl
  · exact State.setReg_reg_ne s hq w

theorem aluFinish_reg (hq : q ≠ d) (h : aluFinish d v s = .next t) : t.reg q = s.reg q := by
  obtain ⟨-, rfl⟩ | ⟨-, -, rfl⟩ | ⟨-, -, rfl⟩ := aluFinish_cases h
  · rfl
  · rfl
  · exact State.setReg_reg_ne s hq (unsigned v)

theorem shiftFinish_reg {f : Nat → Nat → Nat} {m c : Word} (hq : q ≠ d) (h : shiftFinish d f m c s = .next t) :
    t.reg q = s.reg q := by
  obtain ⟨-, rfl⟩ | ⟨-, h⟩ := shiftFinish_cases h
  · rfl
  · exact aluFinish_reg hq h

/-- The data read that comes before a load's register write touches no register (R34). -/
theorem loadInto_reg (hq : q ≠ d) (h : loadInto d a s = .next t) : t.reg q = s.reg q := by
  obtain ⟨-, -, rfl⟩ | ⟨-, rfl⟩ | ⟨-, w, -, -, rfl⟩ := loadInto_cases h
  · rfl
  · exact State.setReg_reg_ne s hq (s.cell a)
  · exact State.setReg_reg_ne s hq w

theorem storeFrom_reg (h : storeFrom w a s = .next t) : t.reg q = s.reg q := by
  rw [storeFrom_eq] at h
  cases h
  rfl

theorem branchIf_reg {c : Bool} (h : branchIf c a s = .next t) : t.reg q = s.reg q := by
  cases h
  cases c
  · rfl
  · rfl

/-! ### The instructions -/

theorem execLd_reg (hq : q ≠ d) (h : execLd d a s = .next t) : t.reg q = s.reg q := by
  obtain rfl | h := execLd_cases h
  · rfl
  · exact loadInto_reg hq h

theorem execLdx_reg (hq : q ≠ d) (h : execLdx d r s = .next t) : t.reg q = s.reg q := by
  obtain rfl | rfl | ⟨a, -, h⟩ := execLdx_cases h
  · rfl
  · rfl
  · exact loadInto_reg hq h

theorem execStx_reg (h : execStx d r s = .next t) : t.reg q = s.reg q := by
  obtain rfl | ⟨a, -, h⟩ := execStx_cases h
  · rfl
  · exact storeFrom_reg h

/-- An instruction leaves every register but its destination as it was (R12). -/
theorem exec_reg (hq : regWritten i ≠ some q) (h : exec i s = .next t) : t.reg q = s.reg q := by
  have hdest {d : RegIdx} (hd : regWritten i = some d) : q ≠ d := fun e => hq (hd.trans (congrArg some e.symm))
  cases i with
  | hlt | jr => cases h; rfl
  | add | sub | and | xor => exact aluFinish_reg (hdest rfl) h
  | shl | shr => exact shiftFinish_reg (hdest rfl) h
  | ldi | call => exact writeBack_reg (hdest rfl) h
  | ld => exact execLd_reg (hdest rfl) h
  | st => exact storeFrom_reg h
  | ldx => exact execLdx_reg (hdest rfl) h
  | stx => exact execStx_reg h
  | bz | bp => exact branchIf_reg h

/-- Settles O35, by the frame of every instruction. -/
theorem onlyTheDestinationRegisterChanges : Obligations.OnlyTheDestinationRegisterChanges :=
  fun _ _ _ _ h hq => exec_reg hq h

/-! ### Register 0 -/

/-- Register 0 is not the destination, or the instruction faults before it writes any register (R74). -/
theorem exec_reg_zero (h : exec i s = .next t) : t.reg 0#4 = s.reg 0#4 := by
  cases hf : Claims.firstFault i s with
  | none =>
    obtain ⟨-, -, hd, -⟩ := conditions_of_firstFault_eq_none hf
    exact exec_reg hd h
  | some f =>
    cases h.symm.trans (exec_of_firstFault_eq_some hf)
    rfl

/-- Settles O40: a fetch fault writes no register, and an instruction leaves register 0 alone. -/
theorem registerZeroIsNeverMutated : Obligations.RegisterZeroIsNeverMutated := by
  intro s t hstep
  obtain ⟨-, ⟨-, rfl⟩ | ⟨ir, -, hexec⟩⟩ := cycle_cases hstep
  · rfl
  · exact exec_reg_zero hexec

end Sys2Proof.Proofs
end

section
/-! PROOFS. Which registers an outcome depends on (spec/10_state.md R12). Two runs are compared: one from a state, one from
the same state with another register file that agrees on the registers the instruction reads. -/

open Sys2Proof Sys2Proof.Machine Sys2Proof.Machine.Laws

namespace Sys2Proof.Proofs

variable {s t t' : State} {ρ : Vector Word 16} {dest : Option RegIdx} {d r : RegIdx}

/-- The state with another register file. -/
def withRegs (s : State) (ρ : Vector Word 16) : State := { s with regs := ρ }

/-- `t` and `t'`, reached from `s` and `s'`, agree outside the registers, and the destination got one Word in both or was
written in neither. -/
structure AlikeAfter (dest : Option RegIdx) (s s' t t' : State) : Prop where
  pc : t.pc = t'.pc
  mem : t.mem = t'.mem
  status : t.status = t'.status
  fault : t.fault = t'.fault
  input : t.input = t'.input
  output : t.output = t'.output
  destination : ∀ d, dest = some d → t.reg d = t'.reg d ∨ (t.reg d = s.reg d ∧ t'.reg d = s'.reg d)

/-- Two outcomes are alike when the states they go on in are. -/
def AlikeOutcomes (dest : Option RegIdx) (s s' : State) (x x' : Result) : Prop :=
  ∀ t t', x = .next t → x' = .next t' → AlikeAfter dest s s' t t'

theorem AlikeOutcomes.of_next (h : AlikeAfter dest s (withRegs s ρ) t t') :
    AlikeOutcomes dest s (withRegs s ρ) (.next t) (.next t') := by
  intro _ _ ht ht'
  cases ht
  cases ht'
  exact h

/-! ### The shared operations -/

/-- A run that changes nothing, as a held load's does, keeps both destinations (R134). -/
theorem AlikeAfter.of_self : AlikeAfter dest s (withRegs s ρ) s (withRegs s ρ) :=
  ⟨rfl, rfl, rfl, rfl, rfl, rfl, fun _ _ => .inr ⟨rfl, rfl⟩⟩

/-- A fault entry writes no register, and the record alike in both runs (R158). -/
theorem raise_alike (c : FaultCause) (v : Int) :
    AlikeOutcomes dest s (withRegs s ρ) (.next (s.raise c v)) (.next ((withRegs s ρ).raise c v)) :=
  .of_next ⟨rfl, rfl, rfl, rfl, rfl, rfl, fun _ _ => .inr ⟨rfl, rfl⟩⟩

/-- One Word written to the destination in both runs is read back in both. -/
theorem AlikeAfter.of_setReg {u : State} (w : Word) :
    AlikeAfter (some d) s (withRegs s ρ) (u.setReg d w) ((withRegs u ρ).setReg d w) where
  pc := rfl
  mem := rfl
  status := rfl
  fault := rfl
  input := rfl
  output := rfl
  destination := by
    rintro _ ⟨⟩
    rw [State.setReg_reg_self, State.setReg_reg_self]
    exact .inl rfl

/-- The program counter is moved last, to the same place in both runs. -/
theorem AlikeAfter.setPc {s' : State} (h : AlikeAfter dest s s' t t') (p : Int) :
    AlikeAfter dest s s' (t.setPc p) (t'.setPc p) :=
  { h with pc := rfl }

theorem writeBack_alike (w : Word) (p : Int) :
    AlikeOutcomes (some d) s (withRegs s ρ) (writeBack d w p s) (writeBack d w p (withRegs s ρ)) := by
  by_cases hd : d = 0#4
  · subst hd
    exact raise_alike .reservedRegister 0
  · rw [writeBack_of_ne hd, writeBack_of_ne hd]
    exact .of_next ((AlikeAfter.of_setReg w).setPc p)

theorem aluFinish_alike (v : Int) :
    AlikeOutcomes (some d) s (withRegs s ρ) (aluFinish d v s) (aluFinish d v (withRegs s ρ)) := by
  by_cases hv : Claims.OutOfRange v
  · rw [aluFinish_of_outOfRange hv, aluFinish_of_outOfRange hv]
    exact raise_alike .arithmeticRange v
  · rw [aluFinish_of_inRange hv, aluFinish_of_inRange hv]
    exact writeBack_alike (unsigned v) (s.pc + 1)

theorem shiftFinish_alike (f : Nat → Nat → Nat) (m c : Word) :
    AlikeOutcomes (some d) s (withRegs s ρ) (shiftFinish d f m c s) (shiftFinish d f m c (withRegs s ρ)) := by
  by_cases hc : signed c < 0
  · rw [shiftFinish_of_neg hc, shiftFinish_of_neg hc]
    exact raise_alike .shiftCount (signed c)
  · rw [shiftFinish_of_nonneg (not_lt.mp hc), shiftFinish_of_nonneg (not_lt.mp hc)]
    exact aluFinish_alike _

theorem loadInto_alike (a : Addr) :
    AlikeOutcomes (some d) s (withRegs s ρ) (loadInto d a s) (loadInto d a (withRegs s ρ)) := by
  by_cases ha : a = Config.ioAddr
  · subst ha
    cases hi : s.input with
    | nil =>
      rw [loadInto_hold d hi, loadInto_hold d (s := withRegs s ρ) hi]
      exact .of_next .of_self
    | cons w rest =>
      rw [loadInto_io d hi, loadInto_io d (s := withRegs s ρ) hi]
      exact .of_next ((AlikeAfter.of_setReg w).setPc (s.pc + 1))
  · rw [loadInto_cell ha, loadInto_cell ha]
    exact .of_next ((AlikeAfter.of_setReg (s.cell a)).setPc (s.pc + 1))

theorem storeFrom_alike (w : Word) (a : Addr) :
    AlikeOutcomes none s (withRegs s ρ) (storeFrom w a s) (storeFrom w a (withRegs s ρ)) := by
  rw [storeFrom_eq, storeFrom_eq]
  exact .of_next ⟨rfl, rfl, rfl, rfl, rfl, rfl, nofun⟩

theorem branchIf_alike (b : Bool) (a : Addr) :
    AlikeOutcomes none s (withRegs s ρ) (branchIf b a s) (branchIf b a (withRegs s ρ)) := by
  cases b
  · exact .of_next (AlikeAfter.of_self.setPc (s.pc + 1))
  · exact .of_next (AlikeAfter.of_self.setPc (absTarget a))

/-! ### The instructions -/

theorem execLd_alike (a : Addr) :
    AlikeOutcomes (some d) s (withRegs s ρ) (execLd d a s) (execLd d a (withRegs s ρ)) := by
  by_cases hd : d = 0#4
  · subst hd
    exact raise_alike .reservedRegister 0
  · rw [execLd, execLd, if_neg hd, if_neg hd]
    exact loadInto_alike a

theorem indirect_congr {s' : State} (h : s'.reg r = s.reg r) : s'.indirect r = s.indirect r :=
  congrArg addrOfWord h

theorem execLdx_alike (hr : (withRegs s ρ).reg r = s.reg r) :
    AlikeOutcomes (some d) s (withRegs s ρ) (execLdx d r s) (execLdx d r (withRegs s ρ)) := by
  unfold execLdx
  rw [indirect_congr hr, State.raiseDataAddress, State.raiseDataAddress, hr]
  split
  · exact raise_alike .reservedRegister 0
  · cases s.indirect r with
    | none => exact raise_alike .dataAddress _
    | some a => exact loadInto_alike a

theorem execStx_alike (hd : (withRegs s ρ).reg d = s.reg d) (hr : (withRegs s ρ).reg r = s.reg r) :
    AlikeOutcomes none s (withRegs s ρ) (execStx d r s) (execStx d r (withRegs s ρ)) := by
  unfold execStx
  rw [indirect_congr hr, State.raiseDataAddress, State.raiseDataAddress, hr, hd]
  cases s.indirect r with
  | none => exact raise_alike .dataAddress _
  | some a => exact storeFrom_alike (s.reg d) a

theorem forall_mem_pair {q : RegIdx} {P : RegIdx → Prop} (h : ∀ x ∈ [r, q], P x) : P r ∧ P q := by
  simpa using h

/-- With the registers it reads the same, an instruction hands the same operands to its shared operation (R12). -/
theorem exec_alike (i : Instr) (h : ∀ r ∈ regsRead i, (withRegs s ρ).reg r = s.reg r) :
    AlikeOutcomes (regWritten i) s (withRegs s ρ) (exec i s) (exec i (withRegs s ρ)) := by
  cases i with
  | hlt => exact .of_next ⟨rfl, rfl, rfl, rfl, rfl, rfl, nofun⟩
  | add d rs rt | sub d rs rt | and d rs rt | xor d rs rt =>
    obtain ⟨hs, ht⟩ := forall_mem_pair h
    simp only [exec, execAdd, execSub, execAnd, execXor, hs, ht]
    exact aluFinish_alike _
  | shl d rs rt | shr d rs rt =>
    obtain ⟨hs, ht⟩ := forall_mem_pair h
    simp only [exec, execShl, execShr, hs, ht]
    exact shiftFinish_alike _ _ _
  | ldi => exact writeBack_alike _ _
  | ld => exact execLd_alike _
  | st d a =>
    simp only [exec, execSt, List.forall_mem_singleton.mp h]
    exact storeFrom_alike _ a
  | ldx => exact execLdx_alike (h _ (List.mem_singleton_self _))
  | stx =>
    obtain ⟨hd, hr⟩ := forall_mem_pair h
    exact execStx_alike hd hr
  | bz d a | bp d a =>
    simp only [exec, execBz, execBp, List.forall_mem_singleton.mp h]
    exact branchIf_alike _ a
  | jr d =>
    simp only [exec, execJr, List.forall_mem_singleton.mp h]
    exact .of_next (AlikeAfter.of_self.setPc _)
  | call => exact writeBack_alike _ _

/-- Settles O39, by the two runs of every instruction. -/
theorem outcomeDependsOnlyOnRegistersRead : Obligations.OutcomeDependsOnlyOnRegistersRead := by
  intro i s s' t t' hs' hread hexec hexec'
  generalize s'.regs = ρ at hs'
  subst hs'
  obtain ⟨hpc, hmem, hstatus, hfault, hinput, houtput, hdest⟩ := exec_alike i hread t t' hexec hexec'
  exact ⟨hpc, hmem, hstatus, hfault, hinput, houtput, hdest⟩

end Sys2Proof.Proofs
end

section
/-! PROOFS. The program counter after a step (spec/10_state.md R13), CALL and JR together (spec/43_control.md R121), and the
idioms (spec/30_encoding.md R60). -/

open Sys2Proof Sys2Proof.Machine Sys2Proof.Machine.Laws

namespace Sys2Proof.Proofs

variable {i : Instr} {s t : State} {d : RegIdx} {a : Addr} {w : Word} {p : Int}

/-! ### The range of the pc -/

theorem pcInRange_absTarget (a : Addr) : pcInRange (absTarget a) := by
  have ha := a.isLt
  unfold absTarget
  constructor <;> omega

theorem pcInRange_signed_succ (w : Word) : pcInRange (signed w + 1) := by
  obtain ⟨hlo, hhi⟩ := signed_range w
  constructor <;> omega

theorem pcInRange_of_fetchable (hp : fetchable p) : pcInRange p := by
  obtain ⟨hlo, hhi⟩ := hp
  constructor <;> omega

theorem pcInRange_succ_of_fetchable (hp : fetchable p) : pcInRange (p + 1) := by
  obtain ⟨hlo, hhi⟩ := hp
  constructor <;> omega

/-- An instruction that falls through ends on the next cell, or where it is: it faulted, or it waits (R76, R134). -/
theorem FallsThrough.pcInRange (h : FallsThrough i s t) (hs : s.status = .run) (hp : fetchable s.pc)
    (hexec : exec i s = .next t) : pcInRange t.pc := by
  obtain hnext | hfault | ⟨-, -, rfl⟩ := h
  · rw [hnext]
    exact pcInRange_succ_of_fetchable hp
  · obtain ⟨c, v, -, rfl⟩ := firstFault_of_exec_fault hs hexec hfault
    exact pcInRange_of_fetchable hp
  · exact pcInRange_of_fetchable hp

theorem branchIf_pcInRange {b : Bool} (hp : fetchable s.pc) (h : branchIf b a s = .next t) : pcInRange t.pc := by
  cases h
  cases b
  · exact pcInRange_succ_of_fetchable hp
  · exact pcInRange_absTarget a

theorem execCall_pcInRange (hp : fetchable s.pc) (h : execCall d a s = .next t) : pcInRange t.pc := by
  obtain ⟨-, rfl⟩ | ⟨-, rfl⟩ := writeBack_cases h
  · exact pcInRange_of_fetchable hp
  · exact pcInRange_absTarget a

/-- An instruction at a cell leaves the `pc` in its range, HLT apart, after which no claim reads it (R13). -/
theorem exec_pcInRange (hs : s.status = .run) (hp : fetchable s.pc) (hi : i ≠ .hlt) (h : exec i s = .next t) :
    pcInRange t.pc := by
  cases i with
  | hlt => exact absurd rfl hi
  | bz | bp => exact branchIf_pcInRange hp h
  | jr d => cases h; exact pcInRange_signed_succ (s.reg d)
  | call => exact execCall_pcInRange hp h
  | _ => exact (exec_fallsThrough (by simp [Instr.opcode]) (by simp [Instr.opcode]) h).pcInRange hs hp h

/-- Settles O43: inside memory a step does fetch, and the instruction it fetched was not HLT. -/
theorem nextPcStaysInItsRange : Obligations.NextPcStaysInItsRange := by
  intro s t hlo hhi hstep ht
  obtain ⟨hs, ⟨hout, -⟩ | ⟨ir, -, hexec⟩⟩ := cycle_cases hstep
  · exact absurd ⟨hlo, hhi⟩ hout
  · refine exec_pcInRange hs ⟨hlo, hhi⟩ (fun hhlt => ht ?_) hexec
    rw [hhlt] at hexec
    cases hexec
    rfl

/-! ### CALL and JR -/

theorem signed_unsigned_of_fetchable (hp : fetchable p) : signed (unsigned p) = p := by
  obtain ⟨hlo, hhi⟩ := hp
  exact signed_unsigned (ovf_eq_false.mpr ⟨by omega, by omega⟩)

/-- Settles O52: the link reads back as the address of the CALL, and JR adds one to it. -/
theorem jrReturnsAfterTheCall : Obligations.JrReturnsAfterTheCall := by
  intro d a s u v hd hlo hhi hcall hlink
  obtain ⟨⟨-, hsets⟩, -⟩ := callSavesItsAddressAndJumps d a s
  obtain ⟨_, hu, ⟨hreg, -⟩, -⟩ := hsets hd
  cases hu.symm.trans hcall
  obtain ⟨t, hjr, hpc, -⟩ := jrJumpsToRegisterPlusOne d v
  rw [hlink, hreg, signed_unsigned_of_fetchable ⟨hlo, hhi⟩] at hpc
  exact ⟨t, hjr, hpc⟩

/-! ### The idioms -/

theorem signed_zero : signed 0#16 = 0 := rfl

/-- Adding register 0 copies the other operand (R60). -/
theorem exec_add_zero (h : s.reg 0#4 = 0#16) (r : RegIdx) :
    exec (.add d r 0#4) s = writeBack d (s.reg r) (s.pc + 1) s := by
  rw [← aluFinish_signed, exec, execAdd, h, signed_zero, add_zero]

/-- Settles O53: each idiom is its instruction at an operand that reads 0. -/
theorem idiomsDoWhatTheyAreNamedFor : Obligations.IdiomsDoWhatTheyAreNamedFor := by
  intro d r a s h
  have hzero : signed (s.reg 0#4) = 0 := by rw [h, signed_zero]
  obtain ⟨-, hnop⟩ := bpBranchesOnPositive 0#4 a s
  obtain ⟨hjmp, -⟩ := bzBranchesOnZero 0#4 a s
  obtain ⟨-, hmov⟩ := writesProtected_of_exec (exec_add_zero (d := d) h r)
  obtain ⟨-, hclr⟩ := ldiStoresTheImmediate d 0#8 s
  exact ⟨hnop hzero.le, hjmp hzero, fun hd => ⟨hmov hd, hclr hd⟩⟩

end Sys2Proof.Proofs
end

section
/-! PROOFS. What a step does outside memory, in a terminal state and at a cell that halts (spec/40_step_and_decode.md R70,
R77, spec/43_control.md R115), and the outputs of the block that only read its state (R78, spec/60_exceptions.md R161). -/

open Sys2Proof Sys2Proof.Machine Sys2Proof.Machine.Laws

namespace Sys2Proof.Proofs

variable {s : State} {a : Addr} {w : Word}

/-! ### The step -/

theorem step_of_not_fetchable (hs : s.status = .run) (hp : ¬ fetchable s.pc) :
    step s = .next s.raiseFetchAddress := by
  simp [step, cycle, hs, fetch_eq_none.mpr hp]

/-- Settles O9: the fetch fails, and its fault is a fault entry. -/
theorem fetchOutsideMemoryFaults : Obligations.FetchOutsideMemoryFaults :=
  fun s hs hp => ⟨_, step_of_not_fetchable hs hp, raise_faultTaken .fetchAddress 0 s⟩

/-- Settles O10: a step that goes on started in status RUN. -/
theorem terminalStatesHaveNoStep : Obligations.TerminalStatesHaveNoStep := by
  intro s hs t hstep
  obtain ⟨hrun, -⟩ := cycle_cases hstep
  exact hs hrun

/-- Settles O27: HLT writes the status alone. -/
theorem hltEndsTheRun : Obligations.HltEndsTheRun :=
  fun _ => ⟨_, rfl, rfl, fun _ => rfl, fun _ => rfl, ⟨rfl, rfl⟩, rfl, rfl, rfl⟩

/-- A Word whose first digit is 0 is HLT, whatever its other digits (R54, R57). -/
theorem decodeWord_eq_hlt (hw : w.toNat < 4096) : decodeWord w = .hlt := by
  have hop := opcodeDigitSelectsTheInstruction w
  rw [Nat.div_eq_of_lt hw] at hop
  generalize decodeWord w = i at hop
  cases i with
  | hlt => rfl
  | _ => simp [Instr.opcode] at hop

/-- Settles O54: the cell's Word is HLT. -/
theorem stepAtAnEmptyCellHalts : Obligations.StepAtAnEmptyCellHalts := by
  intro s a hs hpc hcell
  obtain ⟨t, hexec, hhalt, hregs, hmem, hstreams, -⟩ := hltEndsTheRun s
  have hstep := stepRunsTheDecodedInstruction s a hs hpc
  rw [decodeWord_eq_hlt hcell, hexec] at hstep
  exact ⟨t, hstep, hhalt, hregs, hmem, hstreams⟩

/-! ### The outputs that read the state -/

theorem fatalError_of_fault (hs : s.status = .fault) : s.fatalError = some s.fault := if_pos hs

theorem fatalError_of_ne_fault (hs : s.status ≠ .fault) : s.fatalError = none := if_neg hs

/-- Settles O55: the channel is the record of the FAULT state, and a step that faults writes its own `pc` there. -/
theorem fatalErrorChannelReportsTheFault : Obligations.FatalErrorChannelReportsTheFault := by
  refine ⟨fun _ => fatalError_of_fault, fun s t hstep ht => ?_, fun _ => fatalError_of_ne_fault⟩
  obtain ⟨⟨-, hrecord, -⟩, hcause, -⟩ := faultEntryChangesNothingElse s t hstep ht
  exact ⟨fatalError_of_fault ht, congrArg FaultRecord.fpc hrecord, hcause⟩

theorem trace_of_off (h : s.debugTrace = false) : s.trace = none := by
  simp [State.trace, h]

/-- What the tap shows of an instruction about to execute (R78, log entry 14). -/
def traceAt (s : State) (ir : Word) : TraceRecord where
  pc := s.pc
  ir := ir
  fields := Fields.ofWord ir
  regs := (regsRead (decodeWord ir)).map fun r => (r, s.reg r)
  cell := (loadAddr (decodeWord ir) s).map fun a => (a, s.cell a)

theorem trace_of_on (h : s.debugTrace = true) (hs : s.status = .run) (hpc : s.pc = (a.toNat : Int)) :
    s.trace = some (traceAt s (s.cell a)) := by
  simp [State.trace, h, hs, fetch_eq_some.mpr ⟨a, hpc, rfl⟩, traceAt]

/-- Settles O56: the tap is off, or shows the record of the fetched Word. -/
theorem traceTapShowsWhatIsAboutToExecute : Obligations.TraceTapShowsWhatIsAboutToExecute := by
  refine ⟨fun _ => trace_of_off, fun s a h hs hpc => ⟨_, trace_of_on h hs hpc, rfl, rfl, rfl, ?_, ?_⟩⟩
  · simp [traceAt, Function.comp_def]
  · simp [traceAt]

end Sys2Proof.Proofs
end

section
/-! PROOFS. The text side of the console (spec/44_io_gateway.md R135, R136): decimal digits read back, the source's two lines,
and an input line in ASCII mode. -/

open Sys2Proof Sys2Proof.Machine Sys2Proof.Machine.Laws

namespace Sys2Proof.Proofs

variable {n fuel : Nat} {c : Char} {ds : List Char}

/-! ### One digit -/

/-- The character of a decimal digit, as `decDigits` writes it. -/
def digitChar (n : Nat) : Char := Char.ofNat (48 + n % 10)

theorem toNat_digitChar (n : Nat) : (digitChar n).toNat = 48 + n % 10 := by
  have hvalid : (48 + n % 10).isValidChar := .inl (by omega)
  rw [digitChar, Char.toNat_ofNat, if_pos hvalid]

theorem digitChar_ne_zero (hn : n % 10 ≠ 0) : digitChar n ≠ '0' := by
  refine ne_of_apply_ne Char.toNat ?_
  rw [toNat_digitChar]
  exact fun h => hn (Nat.add_left_cancel h)

theorem digitChar_range (n : Nat) : 48 ≤ (digitChar n).toNat ∧ (digitChar n).toNat ≤ 57 := by
  rw [toNat_digitChar]
  omega

/-! ### The digits of a number -/

theorem decDigits_succ (hn : n ≠ 0) : decDigits (fuel + 1) n = decDigits fuel (n / 10) ++ [digitChar n] :=
  if_neg hn

theorem decDigits_zero (fuel : Nat) : decDigits fuel 0 = [] := by
  cases fuel <;> rfl

theorem decDigits_ne_nil (h0 : n ≠ 0) (hn : n < 10 ^ fuel) : decDigits fuel n ≠ [] := by
  cases fuel with
  | zero => omega
  | succ fuel => simp [decDigits_succ h0]

/-- Every character written is a digit. -/
theorem mem_decDigits_range (h : c ∈ decDigits fuel n) : 48 ≤ c.toNat ∧ c.toNat ≤ 57 := by
  induction fuel generalizing n with
  | zero => cases h
  | succ fuel ih =>
    by_cases hn : n = 0
    · rw [hn, decDigits_zero] at h
      cases h
    · rw [decDigits_succ hn, List.mem_append, List.mem_singleton] at h
      obtain h | rfl := h
      · exact ih h
      · exact digitChar_range n

/-- The number a list of decimal digits writes, the most significant first. -/
def readDecimal (ds : List Char) : Nat := ds.foldl (fun n c => 10 * n + (c.toNat - 48)) 0

theorem readDecimal_append_digit (ds : List Char) (n : Nat) :
    readDecimal (ds ++ [digitChar n]) = 10 * readDecimal ds + n % 10 := by
  simp [readDecimal, toNat_digitChar]

/-- With digits enough for the number, what is written reads back as it. -/
theorem readDecimal_decDigits (hn : n < 10 ^ fuel) : readDecimal (decDigits fuel n) = n := by
  induction fuel generalizing n with
  | zero =>
    obtain rfl : n = 0 := by omega
    rfl
  | succ fuel ih =>
    by_cases h0 : n = 0
    · rw [h0, decDigits_zero]
      rfl
    · rw [decDigits_succ h0, readDecimal_append_digit, ih (by rw [pow_succ] at hn; omega)]
      omega

/-- No digit comes before a number's first one, so no zero leads. -/
theorem head_decDigits_ne_zero (hn : n < 10 ^ fuel) : (decDigits fuel n).head? ≠ some '0' := by
  induction fuel generalizing n with
  | zero => nofun
  | succ fuel ih =>
    by_cases h0 : n = 0
    · rw [h0, decDigits_zero]
      nofun
    · have hrest : n / 10 < 10 ^ fuel := by rw [pow_succ] at hn; omega
      rw [decDigits_succ h0]
      by_cases hd : n / 10 = 0
      · rw [hd, decDigits_zero, List.nil_append, List.head?_cons]
        exact fun h => digitChar_ne_zero (by omega) (Option.some.inj h)
      · rw [List.head?_append_of_ne_nil _ (decDigits_ne_nil hd hrest)]
        exact ih hrest

/-! ### The decimal text of a Word -/

theorem decimal_of_ne_zero {v : Int} (hv : v ≠ 0) :
    decimal v = if v < 0 then '-' :: decDigits 5 v.natAbs else decDigits 5 v.natAbs :=
  if_neg hv

/-- Settles O58: zero is the one digit 0, and every other reading is written with the digits of its absolute value, for
which five are enough. -/
theorem decimalTextReadsBack : Obligations.DecimalTextReadsBack := by
  intro w
  by_cases hv : signed w = 0
  · rw [hv]
    exact ⟨['0'], rfl, rfl, List.forall_mem_singleton.mpr (by decide), nofun, fun _ => rfl⟩
  · have habs : (signed w).natAbs < 10 ^ 5 := by
      have hrange := signed_range w
      omega
    have hne : (signed w).natAbs ≠ 0 := Int.natAbs_ne_zero.mpr hv
    exact ⟨_, decimal_of_ne_zero hv, readDecimal_decDigits habs, fun _ => mem_decDigits_range,
      decDigits_ne_nil hne habs, fun hzero => absurd hzero (head_decDigits_ne_zero habs)⟩

/-! ### The lines of the console -/

/-- Settles O57: the code 0x41 is printable, and its four hexadecimal digits are all below ten. -/
theorem consoleLinesOfTheSource : Obligations.ConsoleLinesOfTheSource := ⟨by decide, by decide⟩

theorem asciiInput_cons (hc : c.toNat < 65536) (rest : List Char) :
    asciiInput (c :: rest) = BitVec.ofNat 16 c.toNat :=
  if_pos hc

/-- Settles O59: the line is read as its first character's code, and supplied. -/
theorem asciiLineDeliversItsFirstCode : Obligations.AsciiLineDeliversItsFirstCode := by
  intro s c rest hs hc
  rw [State.typeLine, if_pos hs, asciiInput_cons (Nat.lt_succ_of_le hc), State.supplyInput_input]

end Sys2Proof.Proofs
end
